-- ==== Sys2Proof/Word.lean ====
section
/-!
DEFINITION. The words of the Z-order curve unit: the 4-bit value on the port `op` and the four machine
widths a coordinate or an index may have. Every other value of the unit is a `BitVec` of one of those widths.
-/

namespace Sys2Proof

/-- The value on the input port `op` (30_encoding R49: one format, OP4, of one length, 4 bits). -/
abbrev OpCode := BitVec 4

/-- The machine widths a port may have (00_scope R3: members of 8, 16, 32, 64). -/
inductive Width where
  | w8
  | w16
  | w32
  | w64
  deriving DecidableEq, Repr

/-- A width as a number of bits. -/
abbrev Width.bits : Width → Nat
  | .w8 => 8
  | .w16 => 16
  | .w32 => 32
  | .w64 => 64

/-- The width of a given number of bits, where there is one (00_scope R3). -/
def Width.ofBits? (n : Nat) : Option Width :=
  if n = 8 then some .w8
  else if n = 16 then some .w16
  else if n = 32 then some .w32
  else if n = 64 then some .w64
  else none

end Sys2Proof
end

