-- ==== Sys2Proof/Syntax.lean ====
section
/-!
DEFINITION. The twelve operations of the unit (00_scope R1; 30_encoding R50), one constructor per row of
spec/opcode_table.json, and the three fields of the format OP4 (R49). An operation has no operand field and no
immediate (R51), so the constructors take no arguments.
-/

namespace Sys2Proof

/-- The operations, in the order of their op codes 0 to 11 (30_encoding R50). -/
inductive Instr where
  | morton2dEncodeLut
  | morton2dDecodeLut
  | morton3dEncodeLut
  | morton3dDecodeLut
  | morton2dEncodeMagic
  | morton2dDecodeMagic
  | morton3dEncodeMagic
  | morton3dDecodeMagic
  | morton2dEncodePbd
  | morton2dDecodePbd
  | morton3dEncodePbd
  | morton3dDecodePbd
  deriving DecidableEq, Repr

/-- The field `strat`, op[3:2] (30_encoding R49). -/
inductive Strategy where
  | lut
  | magic
  | pbd
  deriving DecidableEq, Repr

/-- The field `dim`, op[1] (30_encoding R49). -/
inductive Dim where
  | d2
  | d3
  deriving DecidableEq, Repr

/-- The field `dir`, op[0] (30_encoding R49). -/
inductive Dir where
  | encode
  | decode
  deriving DecidableEq, Repr

end Sys2Proof
end

