-- ==== Sys2Proof/Config.lean ====
section
/-!
DEFINITION. What one instance of the unit fixes: the two width parameters W and M (00_scope R3). The spec leaves
both open over the ten pairs with `M >= W` (92_eei_decisions D2, D9). And the free values of the model: what the output
ports carry while a reserved code stands on `op`, which the spec does not define (30_encoding R53; log 13).
-/

namespace Sys2Proof

/-- A configuration (W, M) of the unit (00_scope R3). Only the ten admitted pairs can be built: a pair with
`M < W` "is not a configuration of the unit" (R3, D24), so the proof of `W <= M` is part of the data. -/
structure Config where
  /-- the coordinate width, W -/
  coord : Width
  /-- the index width, M -/
  index : Width
  /-- `M >= W` -/
  admitted : coord.bits ≤ index.bits
  deriving DecidableEq, Repr

/-- W, the width in bits of each coordinate port (00_scope R3). -/
abbrev Config.W (c : Config) : Nat := c.coord.bits

/-- M, the width in bits of the Morton index port (00_scope R3). -/
abbrev Config.M (c : Config) : Nat := c.index.bits

/-- The configuration with the given widths, where (w, m) is one of the ten admitted pairs (00_scope R3, D24). -/
def Config.ofWidths? (w m : Nat) : Option Config :=
  match Width.ofBits? w, Width.ofBits? m with
  | some coord, some index =>
      if h : coord.bits ≤ index.bits then some ⟨coord, index, h⟩ else none
  | _, _ => none

/-- The pair `State.reset` names, W = M = 8: DESIGN CHOICE (log 2), the pair of the document's worked examples
(00_scope R3). No statement rests on it: statements are for every configuration. -/
def Config.resetPair : Config := ⟨.w8, .w8, Nat.le_refl _⟩

/-- FREE VALUE (DESIGN CHOICE, log 13): what the output port `r` carries while a reserved code is presented. "The unit's
outputs for a reserved code are not defined by this spec" (30_encoding R53); they depend on the presented inputs only
(10_state R32). No body, so nothing can be proved of it. -/
opaque Config.reservedIndex (c : Config) (code : OpCode) (x y z : BitVec c.W) (v : BitVec c.M) : BitVec c.M

/-- FREE VALUE (DESIGN CHOICE, log 13): what the coordinate output port of axis `a` (0 for `cx`, 1 for `cy`, 2 for `cz`)
carries while a reserved code is presented (30_encoding R53; 10_state R32). No body, so nothing can be proved of it. -/
opaque Config.reservedCoord (c : Config) (a : Fin 3) (code : OpCode) (x y z : BitVec c.W) (v : BitVec c.M) : BitVec c.W

end Sys2Proof
end

