-- ==== Sys2Proof/WellFormed.lean ====
section
/-!
DEFINITION. The well-formedness checks on raw data: a 4-bit value is an operation's code, a pair of numbers is a
configuration, an operation's fields are those of a defined one. A term of `Instr` carries no operand, so none of
them is ill-formed (30_encoding R51, R57).
-/

namespace Sys2Proof

/-- The value on `op` is one of the twelve defined codes: its `strat` field is not the reserved value 3
(30_encoding R49, R53). -/
def wellFormedOp (w : OpCode) : Bool := w.extractLsb' 2 2 != 3#2

/-- (w, m) is one of the ten admitted pairs (00_scope R3, D24). -/
def wellFormedPair (w m : Nat) : Bool := (Config.ofWidths? w m).isSome

/-- Every operation is well-formed in every configuration: each combination of the three fields is a defined
operation (30_encoding R57) and all twelve codes are present for every (W, M) (R54). -/
def Instr.wellFormed (_ : Instr) : Bool := true

end Sys2Proof
end

