-- ==== Sys2Proof/Decode.lean ====
section
/-!
DEFINITION. The decoder of the port `op` and its encoder (30_encoding R49, R50, R53, R57): total on every 4-bit
value, the reserved codes answered by name.
-/

namespace Sys2Proof

/-- What a value on `op` decodes to (30_encoding R53: codes 0 to 11 decode to the twelve operations and codes 12
to 15 decode to "reserved"). -/
inductive Decoded where
  | op (i : Instr)
  | reserved (code : OpCode)
  deriving DecidableEq, Repr

/-- The field `strat` read from op[3:2]; the value 3 is reserved (30_encoding R49, R53). -/
def Strategy.ofField (b : BitVec 2) : Option Strategy :=
  match b.toNat with
  | 0 => some .lut
  | 1 => some .magic
  | 2 => some .pbd
  | _ => none

/-- The field `dim` read from op[1] (30_encoding R49). -/
def Dim.ofField (b : Bool) : Dim := if b then .d3 else .d2

/-- The field `dir` read from op[0] (30_encoding R49). -/
def Dir.ofField (b : Bool) : Dir := if b then .decode else .encode

/-- The operation with the given fields: every one of the 2 * 2 * 3 combinations is defined (30_encoding R57). -/
def Instr.ofFields : Strategy → Dim → Dir → Instr
  | .lut, .d2, .encode => .morton2dEncodeLut
  | .lut, .d2, .decode => .morton2dDecodeLut
  | .lut, .d3, .encode => .morton3dEncodeLut
  | .lut, .d3, .decode => .morton3dDecodeLut
  | .magic, .d2, .encode => .morton2dEncodeMagic
  | .magic, .d2, .decode => .morton2dDecodeMagic
  | .magic, .d3, .encode => .morton3dEncodeMagic
  | .magic, .d3, .decode => .morton3dDecodeMagic
  | .pbd, .d2, .encode => .morton2dEncodePbd
  | .pbd, .d2, .decode => .morton2dDecodePbd
  | .pbd, .d3, .encode => .morton3dEncodePbd
  | .pbd, .d3, .decode => .morton3dDecodePbd

/-- Decodes the value on `op` (30_encoding R49, R50, R53). -/
def decode (w : OpCode) : Decoded :=
  match Strategy.ofField (w.extractLsb' 2 2) with
  | some strat => .op (Instr.ofFields strat (Dim.ofField (w.getLsbD 1)) (Dir.ofField (w.getLsbD 0)))
  | none => .reserved w

/-- The field `strat` of an operation, from its name's suffix (30_encoding R57). -/
def Instr.strategy : Instr → Strategy
  | .morton2dEncodeLut | .morton2dDecodeLut | .morton3dEncodeLut | .morton3dDecodeLut => .lut
  | .morton2dEncodeMagic | .morton2dDecodeMagic | .morton3dEncodeMagic | .morton3dDecodeMagic => .magic
  | .morton2dEncodePbd | .morton2dDecodePbd | .morton3dEncodePbd | .morton3dDecodePbd => .pbd

/-- The field `dim` of an operation, from its name (30_encoding R57). -/
def Instr.dim : Instr → Dim
  | .morton2dEncodeLut | .morton2dDecodeLut | .morton2dEncodeMagic | .morton2dDecodeMagic
  | .morton2dEncodePbd | .morton2dDecodePbd => .d2
  | .morton3dEncodeLut | .morton3dDecodeLut | .morton3dEncodeMagic | .morton3dDecodeMagic
  | .morton3dEncodePbd | .morton3dDecodePbd => .d3

/-- The field `dir` of an operation, from its name (30_encoding R57). -/
def Instr.dir : Instr → Dir
  | .morton2dEncodeLut | .morton3dEncodeLut | .morton2dEncodeMagic | .morton3dEncodeMagic
  | .morton2dEncodePbd | .morton3dEncodePbd => .encode
  | .morton2dDecodeLut | .morton3dDecodeLut | .morton2dDecodeMagic | .morton3dDecodeMagic
  | .morton2dDecodePbd | .morton3dDecodePbd => .decode

/-- The bits of the field `strat` (30_encoding R49). -/
def Strategy.field : Strategy → BitVec 2
  | .lut => 0#2
  | .magic => 1#2
  | .pbd => 2#2

/-- The bit of the field `dim` (30_encoding R49). -/
def Dim.field : Dim → BitVec 1
  | .d2 => 0#1
  | .d3 => 1#1

/-- The bit of the field `dir` (30_encoding R49). -/
def Dir.field : Dir → BitVec 1
  | .encode => 0#1
  | .decode => 1#1

/-- The op code of an operation: its fields `strat`, `dim`, `dir` from the most to the least significant bit
(30_encoding R49). -/
def encode (i : Instr) : OpCode := i.strategy.field ++ i.dim.field ++ i.dir.field

/-- The mnemonic by the grammar of 30_encoding R57: dimension, direction, strategy. -/
def Instr.mnemonic (i : Instr) : String :=
  let dim := match i.dim with
    | .d2 => "2d"
    | .d3 => "3d"
  let dir := match i.dir with
    | .encode => "_encode"
    | .decode => "_decode"
  let strat := match i.strategy with
    | .lut => "_lut"
    | .magic => "_magic"
    | .pbd => "_pbd"
  "morton_" ++ dim ++ dir ++ strat

/-- The value a table word drives on the port `op`: its low four bits, since "a decoder reads exactly four bits"
(30_encoding R49). The host counts the row's bits in whole bytes; bits 7 to 4 of that byte belong to no port (log 7). -/
def opOfTableWord (nbits w : Nat) : OpCode := BitVec.ofNat 4 (w % 2 ^ nbits)

/-- The operation the decoder reads from a row of spec/opcode_table.json whose bits are `w`. -/
def decodeTableWord (nbits w : Nat) : Option Instr :=
  match decode (opOfTableWord nbits w) with
  | .op i => some i
  | .reserved _ => none

end Sys2Proof
end

