-- ==== Sys2Proof/Machine/Bits.lean ====
section
/-!
DEFINITION. The primitive functions on values of 00_scope R5 to R20, for every width: truncation, total shifts,
spread and compact, the deposit and extract walks, the interleave masks, and the ideal interleaves and
de-interleaves. A value of width N is a `BitVec N` read as unsigned (R5); bit p of it is `getLsbD p`, 0 at or above N.
-/

namespace Sys2Proof.Machine

/-- The value of width `n` whose bit p is `f p` for p < n: how the rules define a value "by bit position". -/
def ofBits : (n : Nat) → (Nat → Bool) → BitVec n
  | 0, _ => 0#0
  | n + 1, f => BitVec.cons (f n) (ofBits n f)

/-- `trunc_N(a)` and `zext_N(a)`, by whether N is below the width of `a` (00_scope R6). -/
abbrev toWidth {n : Nat} (N : Nat) (a : BitVec n) : BitVec N := a.setWidth N

/-- `shl_N(a, s)`: total, 0 for `s >= N` (00_scope R7, D8). -/
abbrev shl {N : Nat} (a : BitVec N) (s : Nat) : BitVec N := a <<< s

/-- `shr(a, s)`: total, 0 for `s >= N` (00_scope R7, D8). -/
abbrev shr {N : Nat} (a : BitVec N) (s : Nat) : BitVec N := a >>> s

/-- How many of the bits of `m` below position `p` are set: the number k for which a set bit at `p` is the position
`p_k` of 00_scope R14. -/
def rank {N : Nat} (m : BitVec N) (p : Nat) : Nat := (List.range p).countP m.getLsbD

/-- `popcount(a)` (00_scope R8). -/
def popcount {N : Nat} (a : BitVec N) : Nat := rank a N

/-- `spread2(a)` (00_scope R10). -/
def spread2 {n : Nat} (a : BitVec n) : BitVec (2 * n) :=
  ofBits (2 * n) fun p => p % 2 == 0 && a.getLsbD (p / 2)

/-- `compact2(b)` (00_scope R11). -/
def compact2 {n : Nat} (b : BitVec (2 * n)) : BitVec n := ofBits n fun k => b.getLsbD (2 * k)

/-- `spread3(a)` (00_scope R12). -/
def spread3 {n : Nat} (a : BitVec n) : BitVec (3 * n) :=
  ofBits (3 * n) fun p => p % 3 == 0 && a.getLsbD (p / 3)

/-- `compact3(b)` (00_scope R13). -/
def compact3 {n : Nat} (b : BitVec (3 * n)) : BitVec n := ofBits n fun k => b.getLsbD (3 * k)

/-- The pair (r, k) after the first `p` positions of the walk of `deposit_N(a, m)` (00_scope R14). -/
def depositWalk {N : Nat} (a m : BitVec N) : Nat → BitVec N × Nat
  | 0 => (0#N, 0)
  | p + 1 =>
    match depositWalk a m p with
    | (r, k) =>
      if m.getLsbD p then (if a.getLsbD k then r ||| shl 1#N p else r, k + 1) else (r, k)

/-- `deposit_N(a, m)` (00_scope R14). -/
def deposit {N : Nat} (a m : BitVec N) : BitVec N := (depositWalk a m N).1

/-- The pair (r, k) after the first `p` positions of the walk of `extract_N(b, m)` (00_scope R15). -/
def extractWalk {N : Nat} (b m : BitVec N) : Nat → BitVec N × Nat
  | 0 => (0#N, 0)
  | p + 1 =>
    match extractWalk b m p with
    | (r, k) =>
      if m.getLsbD p then (if b.getLsbD p then r ||| shl 1#N k else r, k + 1) else (r, k)

/-- `extract_N(b, m)` (00_scope R15). -/
def extract {N : Nat} (b m : BitVec N) : BitVec N := (extractWalk b m N).1

/-- `EVEN(M)`, the x axis in 2D (00_scope R16). -/
def evenMask (M : Nat) : BitVec M := ofBits M fun p => p % 2 == 0

/-- `ODD(M)`, the y axis in 2D (00_scope R16). -/
def oddMask (M : Nat) : BitVec M := ofBits M fun p => p % 2 == 1

/-- `X3(M)`, the x axis in 3D (00_scope R16). -/
def x3Mask (M : Nat) : BitVec M := ofBits M fun p => p % 3 == 0

/-- `Y3(M)`, the y axis in 3D (00_scope R16). -/
def y3Mask (M : Nat) : BitVec M := ofBits M fun p => p % 3 == 1

/-- `Z3(M)`, the z axis in 3D (00_scope R16). -/
def z3Mask (M : Nat) : BitVec M := ofBits M fun p => p % 3 == 2

/-- Bit number `k` is below the per-coordinate bit limit `L`, where `none` is the limit `inf` (00_scope R19). -/
def below (k : Nat) : Option Nat → Bool
  | none => true
  | some L => decide (k < L)

/-- `ilv2_M(x, y)`, the ideal 2D interleave (00_scope R17). -/
def ilv2 {W : Nat} (M : Nat) (x y : BitVec W) : BitVec M :=
  ofBits M fun p => if p % 2 = 0 then x.getLsbD (p / 2) else y.getLsbD ((p - 1) / 2)

/-- `dilv2_W(v, a)`, the 2D de-interleave of axis `a` (00_scope R18). -/
def dilv2 {M : Nat} (W : Nat) (v : BitVec M) (a : Nat) : BitVec W :=
  ofBits W fun k => v.getLsbD (2 * k + a)

/-- `ilv3_M(x, y, z, L)`, the 3D interleave with bit limit `L` (00_scope R19). -/
def ilv3 {W : Nat} (M : Nat) (x y z : BitVec W) (L : Option Nat) : BitVec M :=
  ofBits M fun p =>
    below (p / 3) L &&
      (if p % 3 = 0 then x.getLsbD (p / 3)
       else if p % 3 = 1 then y.getLsbD (p / 3)
       else z.getLsbD (p / 3))

/-- `dilv3_W(v, a, L)`, the 3D de-interleave of axis `a` with bit limit `L` (00_scope R20). -/
def dilv3 {M : Nat} (W : Nat) (v : BitVec M) (a : Nat) (L : Option Nat) : BitVec W :=
  ofBits W fun k => below k L && v.getLsbD (3 * k + a)

end Sys2Proof.Machine
end

