-- ==== Sys2Proof/Machine/Operands.lean ====
section
/-!
DEFINITION. The operand forms. Every operand is the whole value of an input port (30_encoding R51); the forms an
operation reads it in are its bytes and its 8-bit and 9-bit groups (00_scope R9), and the port at another width
(`toWidth`). Which ports an operation reads and drives is 30_encoding R50.
-/

namespace Sys2Proof.Machine

open Sys2Proof

/-- `byte(a, j)`, byte 0 the least significant (00_scope R9; 20_memory R45). -/
def byte {N : Nat} (a : BitVec N) (j : Nat) : BitVec 8 := toWidth 8 (shr a (8 * j))

/-- `group8(a, j, s)` (00_scope R9). -/
def group8 {N : Nat} (a : BitVec N) (j s : Nat) : BitVec 8 := toWidth 8 (shr a (8 * j + s))

/-- `group9(a, j, s)` (00_scope R9). -/
def group9 {N : Nat} (a : BitVec N) (j s : Nat) : BitVec 9 := toWidth 9 (shr a (9 * j + s))

/-- The operand input ports (10_state R26). -/
inductive InPort where
  | x
  | y
  | z
  | v
  deriving DecidableEq, Repr

/-- The output ports (10_state R27). -/
inductive OutPort where
  | r
  | cx
  | cy
  | cz
  deriving DecidableEq, Repr

/-- The column "reads" of 30_encoding R50. -/
def reads (i : Instr) : List InPort :=
  match i.dir, i.dim with
  | .encode, .d2 => [.x, .y]
  | .encode, .d3 => [.x, .y, .z]
  | .decode, _ => [.v]

/-- The column "drives with a result" of 30_encoding R50. -/
def drives (i : Instr) : List OutPort :=
  match i.dir, i.dim with
  | .encode, _ => [.r]
  | .decode, .d2 => [.cx, .cy]
  | .decode, .d3 => [.cx, .cy, .cz]

end Sys2Proof.Machine
end

