-- ==== Sys2Proof/Machine/State.lean ====
section
/-!
DEFINITION. What a model of the unit carries: the parameters (W, M) and the values on the ports at one moment
(10_state R26, R27), as plain data. The unit itself holds no mutable state (R23, R24, R25, R28, R29, R117, R118),
and its four tables are constants, not state (R30); log 1 and log 8 say how this is represented.
-/

namespace Sys2Proof.Machine

open Sys2Proof

/-- The operand input ports (10_state R26), each at its own width. -/
structure Inputs (c : Config) where
  /-- first coordinate -/
  x : BitVec c.W
  /-- second coordinate -/
  y : BitVec c.W
  /-- third coordinate -/
  z : BitVec c.W
  /-- Morton index -/
  v : BitVec c.M
  deriving DecidableEq, Repr

/-- The output ports (10_state R27), each at its own width. -/
structure Outputs (c : Config) where
  /-- Morton index result -/
  r : BitVec c.M
  /-- decoded first coordinate -/
  cx : BitVec c.W
  /-- decoded second coordinate -/
  cy : BitVec c.W
  /-- decoded third coordinate -/
  cz : BitVec c.W
  deriving DecidableEq, Repr

/-- The state of the model: the parameters, what the environment presents on the input ports, and what the unit drives
on the output ports at that moment (10_state R26, R27; log 1). The output ports are combinational (10_state R33): the
field `out` is no register. Every operation that changes an input port (`State.present`, `State.feedIndex`,
`State.feedCoords`, `State.withFetchWord`) leaves in it the outputs of the inputs it presents (R32; log 12). -/
structure State where
  /-- the instance's parameters (W, M); no step changes them (00_scope R3) -/
  cfg : Config
  /-- the operation select (30_encoding R49) -/
  op : OpCode
  /-- the operand input ports -/
  inp : Inputs cfg
  /-- the output ports, combinational: the function `drivenOutputs` of `op` and `inp` (R32, R33) -/
  out : Outputs cfg
  deriving DecidableEq, Repr

/-- Why the machine stops with a fault: never. "No operation of the unit raises an exception, a trap or an error of any
kind" (60_exceptions R100), so the type has no constructor. DEDUCED, safe or unsafe as log 10 says. -/
inductive Fault where
  deriving DecidableEq, Repr

/-- Why the model gives no meaning. -/
inductive Refusal where
  /-- The host's form for an instruction without a meaning: raised by no arm of this model. Safe. -/
  | notModelled (mnemonic : String)
  /-- A reserved op code, 12 to 15: raised by `step`; the spec asks for "a refusal naming the code" (30_encoding R53,
  93 U9). Safe: nothing can be proved of the hardware's outputs there. -/
  | reservedOp (code : OpCode)
  /-- A pair of widths that is not a configuration: raised by `instantiate` (00_scope R3, D24, 93 U10). Safe: no
  instance of it exists. -/
  | notAConfiguration (w m : Nat)
  deriving DecidableEq, Repr

/-- All operand input ports at 0: what the model takes as presented before the environment has presented anything
(DESIGN CHOICE, log 3). -/
def Inputs.zero (c : Config) : Inputs c := ⟨0#_, 0#_, 0#_, 0#_⟩

/-- All output ports at 0 (10_state R27). -/
def Outputs.zero (c : Config) : Outputs c := ⟨0#_, 0#_, 0#_, 0#_⟩

/-- An instance of configuration `c` before its first evaluation. The unit has nothing to reset (10_state R32, 70 R109);
the presented inputs are 0 (DESIGN CHOICE, log 3), and the outputs are what the unit drives for those inputs (R32). -/
def State.resetFor (c : Config) : State := ⟨c, 0#4, Inputs.zero c, Outputs.zero c⟩

/-- The machine right after reset, at the pair log 2 names (DESIGN CHOICE); `State.resetFor` gives every other pair. -/
def State.reset : State := State.resetFor Config.resetPair

end Sys2Proof.Machine
end

