-- ==== Sys2Proof/Machine/Ops.lean ====
section
/-!
DEFINITION. The named operations over the ports, shared by the twelve meanings, and building an instance. The unit takes
no exception and returns from none (60_exceptions R100, R107), so there is no such operation here. The environment's
actions on the input ports stand in Machine/Ports.lean, since the outputs follow them at once.
-/

namespace Sys2Proof.Machine

open Sys2Proof

/-- The outputs of an encode: `r` is the result, `cx = cy = cz = 0` (10_state R27). -/
def Outputs.index {c : Config} (r : BitVec c.M) : Outputs c := ⟨r, 0#_, 0#_, 0#_⟩

/-- The outputs of a 2D decode: `cx`, `cy` are the results, `r = cz = 0` (10_state R27). -/
def Outputs.pair {c : Config} (cx cy : BitVec c.W) : Outputs c := ⟨0#_, cx, cy, 0#_⟩

/-- The outputs of a 3D decode: `cx`, `cy`, `cz` are the results, `r = 0` (10_state R27). -/
def Outputs.triple {c : Config} (cx cy cz : BitVec c.W) : Outputs c := ⟨0#_, cx, cy, cz⟩

/-- The state in which the unit drives `o` on its output ports. The input ports are "never changed" by an evaluation
(10_state R26), and the parameters are fixed (00_scope R3). -/
def State.drive (s : State) (o : Outputs s.cfg) : State := { s with out := o }

/-- An evaluation that drives `o`: every operation is total and ends in a next state (60_exceptions R100). -/
def answer (s : State) (o : Outputs s.cfg) : Host.Outcome State Fault Refusal := .next (s.drive o)

/-- Building an instance with widths `w` and `m`: only the ten admitted pairs are configurations, any other pair is
refused (00_scope R3; D24). -/
def instantiate (w m : Nat) : Host.Outcome State Fault Refusal :=
  match Config.ofWidths? w m with
  | some c => .next (State.resetFor c)
  | none => .refused (.notAConfiguration w m)

end Sys2Proof.Machine
end

