-- ==== Sys2Proof/Machine/Tables.lean ====
section
/-!
DEFINITION. The four constant tables and the one memory primitive `RomRead` (20_memory R34 to R41). The index and
entry widths are part of the type, so no access is out of range (R40) and no bounds failure exists; a table is a
definition, never memory that is filled (70 R110), and nothing writes one (R39, R48).
-/

namespace Sys2Proof.Machine

/-- The four address spaces (20_memory R34). -/
inductive Table where
  | encode2d
  | decode2d
  | encode3d
  | decode3d
  deriving DecidableEq, Repr

/-- The index width: 256 entries of `ENCODE_2D`, `DECODE_2D`, `ENCODE_3D`, 512 of `DECODE_3D` (20_memory R34). -/
abbrev Table.indexWidth : Table → Nat
  | .encode2d => 8
  | .decode2d => 8
  | .encode3d => 8
  | .decode3d => 9

/-- The entry width (20_memory R41, D11). -/
abbrev Table.entryWidth : Table → Nat
  | .encode2d => 16
  | .decode2d => 4
  | .encode3d => 24
  | .decode3d => 3

/-- `RomRead(T, i)`: entry `i` of table `T` (20_memory R39), by the formulas of R35, R36, R37 and R38. -/
def romRead : (T : Table) → BitVec T.indexWidth → BitVec T.entryWidth
  | .encode2d, b => spread2 (n := 8) b
  | .decode2d, b => compact2 (n := 4) b
  | .encode3d, b => spread3 (n := 8) b
  | .decode3d, g => compact3 (n := 3) g

end Sys2Proof.Machine
end

