-- ==== Sys2Proof/Machine/Lut.lean ====
section
/-!
DEFINITION. The lookup-table operations (40_lut): the loops of R59, R61, R63 and R64 over the tables, step by step.
The accumulator has the index width M and every shift is total (R58).
-/

namespace Sys2Proof.Machine

open Sys2Proof

/-- A table entry scaled by `2^s` and cut to M bits: `trunc_M(2^s * e)` (40_lut R59, R63). -/
def scaled {n : Nat} (M s : Nat) (e : BitVec n) : BitVec M := shl (toWidth M e) s

/-- The loop of `morton_2d_encode_lut` for the bytes j - 1 down to 0 (40_lut R59). -/
def lutEncode2Loop {W : Nat} (M : Nat) (x y : BitVec W) : Nat → BitVec M → BitVec M
  | 0, acc => acc
  | j + 1, acc =>
    let ex := romRead .encode2d (byte x j)
    let ey := romRead .encode2d (byte y j)
    lutEncode2Loop M x y j (shl acc 16 ||| scaled M 1 ey ||| scaled M 0 ex)

/-- The result `r` of `morton_2d_encode_lut` (40_lut R59). -/
def lutEncode2 {W : Nat} (M : Nat) (x y : BitVec W) : BitVec M := lutEncode2Loop M x y (W / 8) 0#M

/-- The accumulator of `morton_2d_decode_lut` for startshift `a` after its first i groups (40_lut R61). -/
def lutDecode2Loop {M : Nat} (v : BitVec M) (a : Nat) : Nat → BitVec M
  | 0 => 0#M
  | i + 1 => lutDecode2Loop v a i ||| shl (toWidth M (romRead .decode2d (group8 v i a))) (4 * i)

/-- The result `c_a` of `morton_2d_decode_lut` (40_lut R61). -/
def lutDecode2 {M : Nat} (W : Nat) (v : BitVec M) (a : Nat) : BitVec W :=
  toWidth W (lutDecode2Loop v a (M / 8))

/-- The loop of `morton_3d_encode_lut` for the bytes j - 1 down to 0 (40_lut R63). -/
def lutEncode3Loop {W : Nat} (M : Nat) (x y z : BitVec W) : Nat → BitVec M → BitVec M
  | 0, acc => acc
  | j + 1, acc =>
    let ex := romRead .encode3d (byte x j)
    let ey := romRead .encode3d (byte y j)
    let ez := romRead .encode3d (byte z j)
    lutEncode3Loop M x y z j (shl acc 24 ||| scaled M 2 ez ||| scaled M 1 ey ||| scaled M 0 ex)

/-- The result `r` of `morton_3d_encode_lut` (40_lut R63). -/
def lutEncode3 {W : Nat} (M : Nat) (x y z : BitVec W) : BitVec M := lutEncode3Loop M x y z (W / 8) 0#M

/-- `G(M) = min(ceil(M / 9), 7)`, the group count of the 3D decode (40_lut R64, D10). -/
def groupCount (M : Nat) : Nat := min ((M + 8) / 9) 7

/-- The accumulator of `morton_3d_decode_lut` for startshift `a` after its first i groups (40_lut R64). -/
def lutDecode3Loop {M : Nat} (v : BitVec M) (a : Nat) : Nat → BitVec M
  | 0 => 0#M
  | i + 1 => lutDecode3Loop v a i ||| shl (toWidth M (romRead .decode3d (group9 v i a))) (3 * i)

/-- The result `c_a` of `morton_3d_decode_lut` (40_lut R64). -/
def lutDecode3 {M : Nat} (W : Nat) (v : BitVec M) (a : Nat) : BitVec W :=
  toWidth W (lutDecode3Loop v a (groupCount M))

/-- The outputs of `morton_2d_encode_lut` for the values on the input ports (40_lut R59). -/
def outMorton2dEncodeLut {c : Config} (inp : Inputs c) : Outputs c :=
  .index (lutEncode2 c.M inp.x inp.y)

/-- `morton_2d_encode_lut`: an evaluation drives its outputs (40_lut R59). -/
def execMorton2dEncodeLut (s : State) : Host.Outcome State Fault Refusal := answer s (outMorton2dEncodeLut s.inp)

/-- The outputs of `morton_2d_decode_lut` for the values on the input ports (40_lut R61). -/
def outMorton2dDecodeLut {c : Config} (inp : Inputs c) : Outputs c :=
  .pair (lutDecode2 c.W inp.v 0) (lutDecode2 c.W inp.v 1)

/-- `morton_2d_decode_lut`: an evaluation drives its outputs (40_lut R61). -/
def execMorton2dDecodeLut (s : State) : Host.Outcome State Fault Refusal := answer s (outMorton2dDecodeLut s.inp)

/-- The outputs of `morton_3d_encode_lut` for the values on the input ports (40_lut R63). -/
def outMorton3dEncodeLut {c : Config} (inp : Inputs c) : Outputs c :=
  .index (lutEncode3 c.M inp.x inp.y inp.z)

/-- `morton_3d_encode_lut`: an evaluation drives its outputs (40_lut R63). -/
def execMorton3dEncodeLut (s : State) : Host.Outcome State Fault Refusal := answer s (outMorton3dEncodeLut s.inp)

/-- The outputs of `morton_3d_decode_lut` for the values on the input ports (40_lut R64). -/
def outMorton3dDecodeLut {c : Config} (inp : Inputs c) : Outputs c :=
  .triple (lutDecode3 c.W inp.v 0) (lutDecode3 c.W inp.v 1) (lutDecode3 c.W inp.v 2)

/-- `morton_3d_decode_lut`: an evaluation drives its outputs (40_lut R64). -/
def execMorton3dDecodeLut (s : State) : Host.Outcome State Fault Refusal := answer s (outMorton3dDecodeLut s.inp)

end Sys2Proof.Machine
end

