-- ==== Sys2Proof/Machine/Magic.lean ====
section
/-!
DEFINITION. The magic-number operations (41_magic): the step sequences of R67, R68, R72 and R73 at the internal width
I(M) of R66, and the operations R70, R71, R76 and R77. The mask literals and the 3D shift amounts are the spec's own
`[from general knowledge, not in source]`: PRESUMED (log 9). What is normative is the net functions R69 and R74 (R75),
which obligations state of these sequences.
-/

namespace Sys2Proof.Machine

open Sys2Proof

/-- The internal widths the family works at (41_magic R66). -/
inductive Internal where
  | i32
  | i64
  deriving DecidableEq, Repr

/-- The internal width in bits. -/
abbrev Internal.bits : Internal → Nat
  | .i32 => 32
  | .i64 => 64

/-- `I(M)`: 32 when M <= 32, 64 when M = 64 (41_magic R66, D14). -/
def internalFor (M : Nat) : Internal := if M ≤ 32 then .i32 else .i64

/-- `K`, the number of bits of each coordinate the 3D sequences carry (41_magic R72). -/
def carriedBits : Internal → Nat
  | .i32 => 10
  | .i64 => 21

/-- One step `(t | t << s) & mask` of a split sequence (41_magic R67). -/
def spreadStep {I : Nat} (s : Nat) (mask t : BitVec I) : BitVec I := (t ||| shl t s) &&& mask

/-- One step `(t ^ t >> s) & mask` of a get sequence (41_magic R68). -/
def gatherStep {I : Nat} (s : Nat) (mask t : BitVec I) : BitVec I := (t ^^^ shr t s) &&& mask

/-- `split2_32` (41_magic R67). -/
def split2At32 (a : BitVec 32) : BitVec 32 :=
  a |> spreadStep 16 0x0000FFFF#32
    |> spreadStep 8 0x00FF00FF#32
    |> spreadStep 4 0x0F0F0F0F#32
    |> spreadStep 2 0x33333333#32
    |> spreadStep 1 0x55555555#32

/-- `split2_64` (41_magic R67). -/
def split2At64 (a : BitVec 64) : BitVec 64 :=
  a |> spreadStep 32 0x00000000FFFFFFFF#64
    |> spreadStep 16 0x0000FFFF0000FFFF#64
    |> spreadStep 8 0x00FF00FF00FF00FF#64
    |> spreadStep 4 0x0F0F0F0F0F0F0F0F#64
    |> spreadStep 2 0x3333333333333333#64
    |> spreadStep 1 0x5555555555555555#64

/-- `get2_32` (41_magic R68). -/
def get2At32 (b : BitVec 32) : BitVec 32 :=
  (b &&& 0x55555555#32)
    |> gatherStep 1 0x33333333#32
    |> gatherStep 2 0x0F0F0F0F#32
    |> gatherStep 4 0x00FF00FF#32
    |> gatherStep 8 0x0000FFFF#32

/-- `get2_64` (41_magic R68). -/
def get2At64 (b : BitVec 64) : BitVec 64 :=
  (b &&& 0x5555555555555555#64)
    |> gatherStep 1 0x3333333333333333#64
    |> gatherStep 2 0x0F0F0F0F0F0F0F0F#64
    |> gatherStep 4 0x00FF00FF00FF00FF#64
    |> gatherStep 8 0x0000FFFF0000FFFF#64
    |> gatherStep 16 0x00000000FFFFFFFF#64

/-- `split3_32` (41_magic R72). -/
def split3At32 (a : BitVec 32) : BitVec 32 :=
  (a &&& 0x000003FF#32)
    |> spreadStep 16 0x030000FF#32
    |> spreadStep 8 0x0300F00F#32
    |> spreadStep 4 0x030C30C3#32
    |> spreadStep 2 0x09249249#32

/-- `split3_64` (41_magic R72). -/
def split3At64 (a : BitVec 64) : BitVec 64 :=
  (a &&& 0x00000000001FFFFF#64)
    |> spreadStep 32 0x001F00000000FFFF#64
    |> spreadStep 16 0x001F0000FF0000FF#64
    |> spreadStep 8 0x100F00F00F00F00F#64
    |> spreadStep 4 0x10C30C30C30C30C3#64
    |> spreadStep 2 0x1249249249249249#64

/-- `get3_32` (41_magic R73). -/
def get3At32 (b : BitVec 32) : BitVec 32 :=
  (b &&& 0x09249249#32)
    |> gatherStep 2 0x030C30C3#32
    |> gatherStep 4 0x0300F00F#32
    |> gatherStep 8 0x030000FF#32
    |> gatherStep 16 0x000003FF#32

/-- `get3_64` (41_magic R73). -/
def get3At64 (b : BitVec 64) : BitVec 64 :=
  (b &&& 0x1249249249249249#64)
    |> gatherStep 2 0x10C30C30C30C30C3#64
    |> gatherStep 4 0x100F00F00F00F00F#64
    |> gatherStep 8 0x001F0000FF0000FF#64
    |> gatherStep 16 0x001F00000000FFFF#64
    |> gatherStep 32 0x00000000001FFFFF#64

/-- `split2_I` (41_magic R67). -/
def split2 : (I : Internal) → BitVec I.bits → BitVec I.bits
  | .i32, a => split2At32 a
  | .i64, a => split2At64 a

/-- `get2_I` (41_magic R68). -/
def get2 : (I : Internal) → BitVec I.bits → BitVec I.bits
  | .i32, b => get2At32 b
  | .i64, b => get2At64 b

/-- `split3_I` (41_magic R72). -/
def split3 : (I : Internal) → BitVec I.bits → BitVec I.bits
  | .i32, a => split3At32 a
  | .i64, a => split3At64 a

/-- `get3_I` (41_magic R73). -/
def get3 : (I : Internal) → BitVec I.bits → BitVec I.bits
  | .i32, b => get3At32 b
  | .i64, b => get3At64 b

/-- The result `r` of `morton_2d_encode_magic` (41_magic R70). -/
def magicEncode2 {W : Nat} (M : Nat) (x y : BitVec W) : BitVec M :=
  let I := internalFor M
  let sx := split2 I (toWidth I.bits x)
  let sy := split2 I (toWidth I.bits y)
  toWidth M (sx ||| shl sy 1)

/-- The coordinate of axis `a` that `morton_2d_decode_magic` returns: `trunc_W(get2_I(shr(p, a)))` (41_magic R71). -/
def magicDecode2 {M : Nat} (W : Nat) (v : BitVec M) (a : Nat) : BitVec W :=
  let I := internalFor M
  let p := toWidth I.bits v
  toWidth W (get2 I (shr p a))

/-- The result `r` of `morton_3d_encode_magic` (41_magic R76). -/
def magicEncode3 {W : Nat} (M : Nat) (x y z : BitVec W) : BitVec M :=
  let I := internalFor M
  let sx := split3 I (toWidth I.bits x)
  let sy := split3 I (toWidth I.bits y)
  let sz := split3 I (toWidth I.bits z)
  toWidth M (sx ||| shl sy 1 ||| shl sz 2)

/-- The coordinate of axis `a` that `morton_3d_decode_magic` returns: `trunc_W(get3_I(shr(p, a)))` (41_magic R77). -/
def magicDecode3 {M : Nat} (W : Nat) (v : BitVec M) (a : Nat) : BitVec W :=
  let I := internalFor M
  let p := toWidth I.bits v
  toWidth W (get3 I (shr p a))

/-- The outputs of `morton_2d_encode_magic` for the values on the input ports (41_magic R70). -/
def outMorton2dEncodeMagic {c : Config} (inp : Inputs c) : Outputs c :=
  .index (magicEncode2 c.M inp.x inp.y)

/-- `morton_2d_encode_magic`: an evaluation drives its outputs (41_magic R70). -/
def execMorton2dEncodeMagic (s : State) : Host.Outcome State Fault Refusal := answer s (outMorton2dEncodeMagic s.inp)

/-- The outputs of `morton_2d_decode_magic` for the values on the input ports (41_magic R71). -/
def outMorton2dDecodeMagic {c : Config} (inp : Inputs c) : Outputs c :=
  .pair (magicDecode2 c.W inp.v 0) (magicDecode2 c.W inp.v 1)

/-- `morton_2d_decode_magic`: an evaluation drives its outputs (41_magic R71). -/
def execMorton2dDecodeMagic (s : State) : Host.Outcome State Fault Refusal := answer s (outMorton2dDecodeMagic s.inp)

/-- The outputs of `morton_3d_encode_magic` for the values on the input ports (41_magic R76). -/
def outMorton3dEncodeMagic {c : Config} (inp : Inputs c) : Outputs c :=
  .index (magicEncode3 c.M inp.x inp.y inp.z)

/-- `morton_3d_encode_magic`: an evaluation drives its outputs (41_magic R76). -/
def execMorton3dEncodeMagic (s : State) : Host.Outcome State Fault Refusal := answer s (outMorton3dEncodeMagic s.inp)

/-- The outputs of `morton_3d_decode_magic` for the values on the input ports (41_magic R77). -/
def outMorton3dDecodeMagic {c : Config} (inp : Inputs c) : Outputs c :=
  .triple (magicDecode3 c.W inp.v 0) (magicDecode3 c.W inp.v 1) (magicDecode3 c.W inp.v 2)

/-- `morton_3d_decode_magic`: an evaluation drives its outputs (41_magic R77). -/
def execMorton3dDecodeMagic (s : State) : Host.Outcome State Fault Refusal := answer s (outMorton3dDecodeMagic s.inp)

end Sys2Proof.Machine
end

