-- ==== Sys2Proof/Machine/Pbd.lean ====
section
/-!
DEFINITION. The parallel-bits-deposit operations (42_pbd): `deposit_M` and `extract_M` of 00_scope R14 and R15 under
the interleave masks of R16 (R80). They are present in every configuration (00_scope R4).
-/

namespace Sys2Proof.Machine

open Sys2Proof

/-- The result `r` of `morton_2d_encode_pbd` (42_pbd R81). -/
def pbdEncode2 {W : Nat} (M : Nat) (x y : BitVec W) : BitVec M :=
  deposit (toWidth M y) (oddMask M) ||| deposit (toWidth M x) (evenMask M)

/-- The coordinate that a decode extracts under the mask `m` (42_pbd R82, R84). -/
def pbdDecode {M : Nat} (W : Nat) (v m : BitVec M) : BitVec W := toWidth W (extract v m)

/-- The result `r` of `morton_3d_encode_pbd` (42_pbd R83). -/
def pbdEncode3 {W : Nat} (M : Nat) (x y z : BitVec W) : BitVec M :=
  deposit (toWidth M x) (x3Mask M) ||| deposit (toWidth M y) (y3Mask M) ||| deposit (toWidth M z) (z3Mask M)

/-- The outputs of `morton_2d_encode_pbd` for the values on the input ports (42_pbd R81). -/
def outMorton2dEncodePbd {c : Config} (inp : Inputs c) : Outputs c :=
  .index (pbdEncode2 c.M inp.x inp.y)

/-- `morton_2d_encode_pbd`: an evaluation drives its outputs (42_pbd R81). -/
def execMorton2dEncodePbd (s : State) : Host.Outcome State Fault Refusal := answer s (outMorton2dEncodePbd s.inp)

/-- The outputs of `morton_2d_decode_pbd` for the values on the input ports (42_pbd R82). -/
def outMorton2dDecodePbd {c : Config} (inp : Inputs c) : Outputs c :=
  .pair (pbdDecode c.W inp.v (evenMask _)) (pbdDecode c.W inp.v (oddMask _))

/-- `morton_2d_decode_pbd`: an evaluation drives its outputs (42_pbd R82). -/
def execMorton2dDecodePbd (s : State) : Host.Outcome State Fault Refusal := answer s (outMorton2dDecodePbd s.inp)

/-- The outputs of `morton_3d_encode_pbd` for the values on the input ports (42_pbd R83). -/
def outMorton3dEncodePbd {c : Config} (inp : Inputs c) : Outputs c :=
  .index (pbdEncode3 c.M inp.x inp.y inp.z)

/-- `morton_3d_encode_pbd`: an evaluation drives its outputs (42_pbd R83). -/
def execMorton3dEncodePbd (s : State) : Host.Outcome State Fault Refusal := answer s (outMorton3dEncodePbd s.inp)

/-- The outputs of `morton_3d_decode_pbd` for the values on the input ports (42_pbd R84). -/
def outMorton3dDecodePbd {c : Config} (inp : Inputs c) : Outputs c :=
  .triple (pbdDecode c.W inp.v (x3Mask _)) (pbdDecode c.W inp.v (y3Mask _)) (pbdDecode c.W inp.v (z3Mask _))

/-- `morton_3d_decode_pbd`: an evaluation drives its outputs (42_pbd R84). -/
def execMorton3dDecodePbd (s : State) : Host.Outcome State Fault Refusal := answer s (outMorton3dDecodePbd s.inp)

end Sys2Proof.Machine
end

