-- ==== Sys2Proof/Machine/Dispatch.lean ====
section
/-! DEFINITION. The dispatch of an operation to its meaning (30_encoding R50), one arm per constructor. -/

namespace Sys2Proof.Machine
open Sys2Proof

def exec (i : Instr) (s : State) : Host.Outcome State Fault Refusal :=
  match i with
  | .morton2dEncodeLut => Sys2Proof.Machine.execMorton2dEncodeLut s
  | .morton2dDecodeLut => Sys2Proof.Machine.execMorton2dDecodeLut s
  | .morton3dEncodeLut => Sys2Proof.Machine.execMorton3dEncodeLut s
  | .morton3dDecodeLut => Sys2Proof.Machine.execMorton3dDecodeLut s
  | .morton2dEncodeMagic => Sys2Proof.Machine.execMorton2dEncodeMagic s
  | .morton2dDecodeMagic => Sys2Proof.Machine.execMorton2dDecodeMagic s
  | .morton3dEncodeMagic => Sys2Proof.Machine.execMorton3dEncodeMagic s
  | .morton3dDecodeMagic => Sys2Proof.Machine.execMorton3dDecodeMagic s
  | .morton2dEncodePbd => Sys2Proof.Machine.execMorton2dEncodePbd s
  | .morton2dDecodePbd => Sys2Proof.Machine.execMorton2dDecodePbd s
  | .morton3dEncodePbd => Sys2Proof.Machine.execMorton3dEncodePbd s
  | .morton3dDecodePbd => Sys2Proof.Machine.execMorton3dDecodePbd s

end Sys2Proof.Machine
end

