-- ==== Sys2Proof/Machine/Ports.lean ====
section
/-!
DEFINITION. The output ports as the combinational function of the input ports that they are (10_state R32, R33;
70 R115), and the environment's actions on the input ports: after each of them the output ports carry the outputs of the
inputs now presented. Nothing is registered (91 N2).
-/

namespace Sys2Proof.Machine

open Sys2Proof

/-- The outputs of operation `i` for the values on the input ports (30_encoding R50; 00_scope R22). -/
def outputsOf {c : Config} (i : Instr) (inp : Inputs c) : Outputs c :=
  match i with
  | .morton2dEncodeLut => outMorton2dEncodeLut inp
  | .morton2dDecodeLut => outMorton2dDecodeLut inp
  | .morton3dEncodeLut => outMorton3dEncodeLut inp
  | .morton3dDecodeLut => outMorton3dDecodeLut inp
  | .morton2dEncodeMagic => outMorton2dEncodeMagic inp
  | .morton2dDecodeMagic => outMorton2dDecodeMagic inp
  | .morton3dEncodeMagic => outMorton3dEncodeMagic inp
  | .morton3dDecodeMagic => outMorton3dDecodeMagic inp
  | .morton2dEncodePbd => outMorton2dEncodePbd inp
  | .morton2dDecodePbd => outMorton2dDecodePbd inp
  | .morton3dEncodePbd => outMorton3dEncodePbd inp
  | .morton3dDecodePbd => outMorton3dDecodePbd inp

/-- The output ports while a reserved code is presented: not defined by the spec (30_encoding R53), so free values on
every port (DESIGN CHOICE, log 13). An evaluation of such a code is refused by `step` and answers no outputs. -/
def reservedOutputs {c : Config} (code : OpCode) (inp : Inputs c) : Outputs c :=
  { r := c.reservedIndex code inp.x inp.y inp.z inp.v
    cx := c.reservedCoord 0 code inp.x inp.y inp.z inp.v
    cy := c.reservedCoord 1 code inp.x inp.y inp.z inp.v
    cz := c.reservedCoord 2 code inp.x inp.y inp.z inp.v }

/-- What the output ports carry while `op` and `inp` stand on the input ports: "a function of the current inputs only"
(10_state R32, R33; 70 R115). -/
def drivenOutputs {c : Config} (op : OpCode) (inp : Inputs c) : Outputs c :=
  match decode op with
  | .op i => outputsOf i inp
  | .reserved code => reservedOutputs code inp

/-- The output ports follow the input ports: `out` becomes what the unit drives for the inputs presented now
(10_state R32). -/
def State.settle (s : State) : State := s.drive (drivenOutputs s.op s.inp)

/-- The environment presents an op code and operand values (00_scope R22), and the outputs follow at that moment
(10_state R32). -/
def State.present (s : State) (op : OpCode) (inp : Inputs s.cfg) : State :=
  { s with op := op, inp := inp : State }.settle

/-- The environment presents the value on the index output `r` at the index input `v` (95_test_vectors section 7), and
the outputs follow (10_state R32). -/
def State.feedIndex (s : State) : State := s.present s.op { s.inp with v := s.out.r }

/-- The environment presents the values on the coordinate outputs `cx`, `cy`, `cz` at the coordinate inputs `x`, `y`,
`z` (95_test_vectors section 7), and the outputs follow (10_state R32). -/
def State.feedCoords (s : State) : State :=
  s.present s.op { s.inp with x := s.out.cx, y := s.out.cy, z := s.out.cz }

end Sys2Proof.Machine
end

