-- ==== Sys2Proof/Machine/Step.lean ====
section
/-!
DEFINITION. One step is one evaluation (00_scope R22): the unit decodes the value on the port `op` and drives the
outputs of that operation. The outputs being combinational (10_state R32, R33), they stand on the ports already when the
inputs are presented; the step answers them, or refuses a reserved code (log 12). It fetches no instruction and has no program counter (10_state R25).
-/

namespace Sys2Proof.Machine

open Sys2Proof

/-- One evaluation of the presented inputs: codes 0 to 11 run, codes 12 to 15 are refused by name
(00_scope R22; 30_encoding R53). -/
def step (s : State) : Host.Outcome State Fault Refusal :=
  match decode s.op with
  | .op i => exec i s
  | .reserved code => .refused (.reservedOp code)

/-- `eval : (W, M) -> op -> (x, y, z, v) -> (r, cx, cy, cz)` of 00_scope R22: the environment presents the values to
an instance of configuration `c`, which makes one evaluation; the results are the `out` of the next state. -/
def eval (c : Config) (op : OpCode) (inp : Inputs c) : Host.Outcome State Fault Refusal :=
  step ((State.resetFor c).present op inp)

/-- The host's form of "the next instruction": the environment drives the port `op` with the table word (log 4), the
operand ports stay as they are, and the outputs follow (10_state R32; log 12). -/
def State.withFetchWord (s : State) (nbits w : Nat) : State := s.present (opOfTableWord nbits w) s.inp

end Sys2Proof.Machine
end

