-- ==== Sys2Proof/Laws/PerInstr.lean ====
section
/-!
SUPPORT. The per-instruction family `FieldsRebuild`: the three fields of an operation's name name that operation
(30_encoding R57).
-/

namespace Sys2Proof.Laws.FieldsRebuild

open Sys2Proof

/-- The operation with the fields of `i` is `i`, and its op code is below the reserved codes. -/
def Statement (i : Instr) : Prop :=
  Instr.ofFields i.strategy i.dim i.dir = i ∧ (encode i).toNat < 12

theorem morton2dEncodeLut : Statement .morton2dEncodeLut := ⟨rfl, by decide⟩
theorem morton2dDecodeLut : Statement .morton2dDecodeLut := ⟨rfl, by decide⟩
theorem morton3dEncodeLut : Statement .morton3dEncodeLut := ⟨rfl, by decide⟩
theorem morton3dDecodeLut : Statement .morton3dDecodeLut := ⟨rfl, by decide⟩
theorem morton2dEncodeMagic : Statement .morton2dEncodeMagic := ⟨rfl, by decide⟩
theorem morton2dDecodeMagic : Statement .morton2dDecodeMagic := ⟨rfl, by decide⟩
theorem morton3dEncodeMagic : Statement .morton3dEncodeMagic := ⟨rfl, by decide⟩
theorem morton3dDecodeMagic : Statement .morton3dDecodeMagic := ⟨rfl, by decide⟩
theorem morton2dEncodePbd : Statement .morton2dEncodePbd := ⟨rfl, by decide⟩
theorem morton2dDecodePbd : Statement .morton2dDecodePbd := ⟨rfl, by decide⟩
theorem morton3dEncodePbd : Statement .morton3dEncodePbd := ⟨rfl, by decide⟩
theorem morton3dDecodePbd : Statement .morton3dDecodePbd := ⟨rfl, by decide⟩

end Sys2Proof.Laws.FieldsRebuild
end

