-- ==== Sys2Proof/Machine/ClosedForm.lean ====
section
/-!
DEFINITION. The closed forms of the operations: the ideal interleaves and de-interleaves of 00_scope R17 to R20 with
the per-coordinate bit limits at the head of 43_laws. The meanings do not use them; the statements compare the two.
-/

namespace Sys2Proof.Machine

open Sys2Proof

/-- The encode limit `Le(C, M)` of the head of 43_laws; `none` is `inf`. -/
def encodeLimit : Strategy → Nat → Option Nat
  | .lut, _ => none
  | .magic, M => some (carriedBits (internalFor M))
  | .pbd, _ => none

/-- The decode limit `Ld(C, M)` of the head of 43_laws; `none` is `inf`. -/
def decodeLimit : Strategy → Nat → Option Nat
  | .lut, M => some (3 * groupCount M)
  | .magic, M => some (carriedBits (internalFor M))
  | .pbd, _ => none

/-- The minimum of a number and a limit. -/
def capBy (n : Nat) : Option Nat → Nat
  | none => n
  | some L => min n L

/-- `cap(M, a) = ceil((M - a) / 3)`, the number of index positions of axis `a` (head of 43_laws). -/
def axisCapacity (M a : Nat) : Nat := (M - a + 2) / 3

/-- The number of bits of axis `a` that survive a 3D encode by `enc` and a decode by `dec` (43_laws R89). -/
def survivingBits (c : Config) (dec enc : Strategy) (a : Nat) : Nat :=
  min (capBy (capBy c.W (encodeLimit enc c.M)) (decodeLimit dec c.M)) (axisCapacity c.M a)

/-- `KEEP`: the index bits that survive a 3D decode by `dec` and an encode by `enc` (43_laws R90). -/
def keepMask (c : Config) (dec enc : Strategy) : BitVec c.M :=
  ofBits c.M fun p => decide (p / 3 < capBy (capBy c.W (decodeLimit dec c.M)) (encodeLimit enc c.M))

/-- The number of index bits below the boundary bits: 30 at M = 32, 63 at M = 64, all M otherwise (43_laws R95). -/
def boundary (M : Nat) : Nat := if M = 32 then 30 else if M = 64 then 63 else M

/-- `v'`: the index with its boundary bits cleared (43_laws R95). -/
def clearBoundary {M : Nat} (v : BitVec M) : BitVec M := v &&& ofBits M fun p => decide (p < boundary M)

/-- The outputs of operation `i` in closed form (40_lut R60, R62, R65; 41_magic R70, R71, R76, R77; 42_pbd R81 to R84;
10_state R27 for the ports it does not drive). -/
def closedForm (c : Config) (i : Instr) (inp : Inputs c) : Outputs c :=
  match i.dim, i.dir with
  | .d2, .encode => .index (ilv2 c.M inp.x inp.y)
  | .d2, .decode => .pair (dilv2 c.W inp.v 0) (dilv2 c.W inp.v 1)
  | .d3, .encode => .index (ilv3 c.M inp.x inp.y inp.z (encodeLimit i.strategy c.M))
  | .d3, .decode =>
    let L := decodeLimit i.strategy c.M
    .triple (dilv3 c.W inp.v 0 L) (dilv3 c.W inp.v 1 L) (dilv3 c.W inp.v 2 L)

end Sys2Proof.Machine
end

