-- ==== Sys2Proof/Safety.lean ====
section
/-!
DEFINITION. What counts as a good state and a safe step, and the ports bit by bit, in the terms the statements use.
-/

namespace Sys2Proof.Machine

open Sys2Proof

/-- The outputs are those of the presented inputs: "their value at any moment is what rule R22 gives for the inputs
presented at that moment" (10_state R32), the operation's value being its closed form. For a reserved code the spec
defines no outputs (30_encoding R53; free values, log 13), so nothing is asked. -/
def Settled (s : State) : Prop :=
  ∀ i, decode s.op = .op i → s.out = closedForm s.cfg i s.inp

/-- A step is safe when it ends in a next state (60_exceptions R100). -/
def StepsOn (s : State) : Prop := ∃ t, step s = .next t

/-- Operation `i`, evaluated at `s`, ends in a next state that differs from `s` in the output ports only, and these
carry `o` (10_state R26, R27). -/
def Drives (i : Instr) (s : State) (o : Outputs s.cfg) : Prop := exec i s = .next (s.drive o)

/-- The width of an input port (10_state R26). -/
def InPort.width (c : Config) : InPort → Nat
  | .v => c.M
  | _ => c.W

/-- Bit `p` of an input port. -/
def inBit {c : Config} (inp : Inputs c) : InPort → Nat → Bool
  | .x, p => inp.x.getLsbD p
  | .y, p => inp.y.getLsbD p
  | .z, p => inp.z.getLsbD p
  | .v, p => inp.v.getLsbD p

/-- Bit `p` of an output port. -/
def outBit {c : Config} (out : Outputs c) : OutPort → Nat → Bool
  | .r, p => out.r.getLsbD p
  | .cx, p => out.cx.getLsbD p
  | .cy, p => out.cy.getLsbD p
  | .cz, p => out.cz.getLsbD p

/-- The inputs that agree with `a` on the ports operation `i` reads and with `b` on the others (30_encoding R50). -/
def readFrom {c : Config} (i : Instr) (a b : Inputs c) : Inputs c :=
  { x := if InPort.x ∈ reads i then a.x else b.x
    y := if InPort.y ∈ reads i then a.y else b.y
    z := if InPort.z ∈ reads i then a.z else b.z
    v := if InPort.v ∈ reads i then a.v else b.v }

/-- Two inputs combined port by port, bit by bit (43_laws R97). -/
def bitwise {c : Config} (f : {n : Nat} → BitVec n → BitVec n → BitVec n) (a b : Inputs c) : Inputs c :=
  ⟨f a.x b.x, f a.y b.y, f a.z b.z, f a.v b.v⟩

end Sys2Proof.Machine
end

