-- ==== Sys2Proof/Certificates/Slice0/Obligations.lean ====
section
/-!
DEFINITION. The statements for the provers, each with the rule of spec/ it comes from. `s.drive o` is the state `s`
with the output ports carrying `o` and everything else unchanged, so `exec i s = .next (s.drive o)` states the result,
the completion and the whole frame of `i` at once. The unit has no memory and no flag to state a frame of.
-/

open Sys2Proof Sys2Proof.Machine

/-! ## Reset, configuration, decoding, the step -/

/-- 10_state R32, 70 R109, with the choices of logs 2 and 3 (the presented inputs are 0, the named pair is (8, 8)). -/
def Obligations.ResetPortsAreZero : Prop :=
  (∀ c : Config, State.resetFor c = ⟨c, 0#4, ⟨0#_, 0#_, 0#_, 0#_⟩, ⟨0#_, 0#_, 0#_, 0#_⟩⟩) ∧
    State.reset = State.resetFor Config.resetPair ∧ State.reset.cfg.W = 8 ∧ State.reset.cfg.M = 8

/-- 10_state R32: the outputs at reset are what the unit drives for the inputs presented then. -/
def Obligations.ResetIsSettled : Prop :=
  (∀ c : Config, Settled (State.resetFor c)) ∧ Settled State.reset

/-- 00_scope R3, D24: exactly the ten admitted pairs can be instantiated; any other is refused by name. -/
def Obligations.OnlyAdmittedPairsInstantiate : Prop :=
  ∀ w m : Nat,
    if (w, m) ∈ [(8, 8), (8, 16), (8, 32), (8, 64), (16, 16), (16, 32), (16, 64), (32, 32), (32, 64), (64, 64)] then
      ∃ c : Config, c.W = w ∧ c.M = m ∧ instantiate w m = .next (State.resetFor c)
    else instantiate w m = .refused (.notAConfiguration w m)

/-- 00_scope R22, 30_encoding R49: a step runs the operation decoded from the port `op`, and nothing around it; the
host's fetch word reaches the port. -/
def Obligations.StepRunsTheDecodedOperation : Prop :=
  (∀ (s : State) (i : Instr), decode s.op = .op i → step s = exec i s) ∧
    ∀ (s : State) (nbits w : Nat) (i : Instr),
      decodeTableWord nbits w = some i → step (s.withFetchWord nbits w) = exec i (s.withFetchWord nbits w)

/-- 30_encoding R53: codes 0 to 11 decode to an operation and the step goes on; codes 12 to 15 decode to "reserved"
and are refused by a refusal naming the code, with no outputs. -/
def Obligations.StepAnswersByCode : Prop :=
  ∀ s : State,
    if 12 ≤ s.op.toNat then decode s.op = .reserved s.op ∧ step s = .refused (.reservedOp s.op)
    else (∃ i, decode s.op = .op i) ∧ StepsOn s

/-- 30_encoding R49, R50: the decoder and the encoder agree in both directions. -/
def Obligations.DecodeAndEncodeAgree : Prop :=
  (∀ i : Instr, decode (encode i) = .op i) ∧ ∀ (w : OpCode) (i : Instr), decode w = .op i → encode i = w

/-- 30_encoding R49, R57: op[3:2] is the strategy with 3 reserved, op[1] the dimension, op[0] the direction; every
combination of the defined fields is exactly one operation. -/
def Obligations.DecodeReadsTheThreeFields : Prop :=
  (∀ (C : Strategy) (dim : Dim) (dir : Dir),
      decode (C.field ++ dim.field ++ dir.field) = .op (Instr.ofFields C dim dir)) ∧
    (∀ d e : BitVec 1, decode (3#2 ++ d ++ e) = .reserved (3#2 ++ d ++ e)) ∧
    ∀ i : Instr, Laws.FieldsRebuild.Statement i

/-- 30_encoding R50: the opcode map, row by row: code, mnemonic, ports read, ports driven with a result. -/
def Obligations.OpcodeMapIsTheTable : Prop :=
  [0b0000#4, 0b0001#4, 0b0010#4, 0b0011#4, 0b0100#4, 0b0101#4, 0b0110#4, 0b0111#4, 0b1000#4, 0b1001#4, 0b1010#4,
      0b1011#4].map decode =
    [.op .morton2dEncodeLut, .op .morton2dDecodeLut, .op .morton3dEncodeLut, .op .morton3dDecodeLut,
      .op .morton2dEncodeMagic, .op .morton2dDecodeMagic, .op .morton3dEncodeMagic, .op .morton3dDecodeMagic,
      .op .morton2dEncodePbd, .op .morton2dDecodePbd, .op .morton3dEncodePbd, .op .morton3dDecodePbd] ∧
  [Instr.morton2dEncodeLut, .morton2dDecodeLut, .morton3dEncodeLut, .morton3dDecodeLut, .morton2dEncodeMagic,
      .morton2dDecodeMagic, .morton3dEncodeMagic, .morton3dDecodeMagic, .morton2dEncodePbd, .morton2dDecodePbd,
      .morton3dEncodePbd, .morton3dDecodePbd].map (fun i => (i.mnemonic, reads i, drives i)) =
    [("morton_2d_encode_lut", [.x, .y], [.r]), ("morton_2d_decode_lut", [.v], [.cx, .cy]),
      ("morton_3d_encode_lut", [.x, .y, .z], [.r]), ("morton_3d_decode_lut", [.v], [.cx, .cy, .cz]),
      ("morton_2d_encode_magic", [.x, .y], [.r]), ("morton_2d_decode_magic", [.v], [.cx, .cy]),
      ("morton_3d_encode_magic", [.x, .y, .z], [.r]), ("morton_3d_decode_magic", [.v], [.cx, .cy, .cz]),
      ("morton_2d_encode_pbd", [.x, .y], [.r]), ("morton_2d_decode_pbd", [.v], [.cx, .cy]),
      ("morton_3d_encode_pbd", [.x, .y, .z], [.r]), ("morton_3d_decode_pbd", [.v], [.cx, .cy, .cz])]

/-- 00_scope R2, R22: an evaluation depends on the parameters, the op code and the inputs alone, whatever was evaluated
before: it is `eval` of them. -/
def Obligations.NothingPersistsBetweenEvaluations : Prop :=
  (∀ (s : State) (o : Outputs s.cfg), step { s with out := o } = step s) ∧
    ∀ s : State, step s = eval s.cfg s.op s.inp

/-- 10_state R26: an input port that an operation does not read has no effect on that operation's outputs. -/
def Obligations.UnreadInputsHaveNoEffect : Prop :=
  ∀ (i : Instr) (s : State) (b : Inputs s.cfg),
    ∃ o : Outputs s.cfg, Drives i s o ∧ Drives i { s with inp := readFrom i s.inp b } o

/-- 10_state R26, R27, 60_exceptions R100: every operation ends in a next state in every state; the input ports, the op
code and the parameters are unchanged; a port it does not drive with a result is driven with 0. -/
def Obligations.EveryOperationCompletesAndZeroesTheRest : Prop :=
  ∀ (i : Instr) (s : State), ∃ o : Outputs s.cfg,
    exec i s = .next { s with out := o } ∧
      (.r ∉ drives i → o.r = 0#_) ∧ (.cx ∉ drives i → o.cx = 0#_) ∧
      (.cy ∉ drives i → o.cy = 0#_) ∧ (.cz ∉ drives i → o.cz = 0#_)

/-! ## Primitives, masks and tables -/

/-- 00_scope R7: the shifts are total, with the mathematical meaning for every amount. -/
def Obligations.ShiftsAreTotal : Prop :=
  ∀ (N : Nat) (a : BitVec N) (s : Nat),
    (shl a s).toNat = (a.toNat * 2 ^ s) % 2 ^ N ∧ (shr a s).toNat = a.toNat / 2 ^ s ∧
      (N ≤ s → shl a s = 0#N ∧ shr a s = 0#N)

/-- 00_scope R9: bytes and groups are fields of the value, bits above its width reading 0. -/
def Obligations.BytesAndGroupsAreFields : Prop :=
  ∀ (N : Nat) (a : BitVec N) (j s : Nat),
    (byte a j).toNat = a.toNat / 2 ^ (8 * j) % 256 ∧
      (group8 a j s).toNat = a.toNat / 2 ^ (8 * j + s) % 256 ∧
      (group9 a j s).toNat = a.toNat / 2 ^ (9 * j + s) % 512

/-- 00_scope R14: the bit-by-bit walk of a deposit puts the k-th source bit at the k-th set bit of the mask and 0
elsewhere. -/
def Obligations.DepositPlacesSourceBitsUnderTheMask : Prop :=
  ∀ (N : Nat) (a m : BitVec N) (p : Nat),
    (deposit a m).getLsbD p = (m.getLsbD p && a.getLsbD (rank m p))

/-- 00_scope R15: the bit-by-bit walk of an extract puts the bit at the k-th set bit of the mask at position k and 0
from the mask's set-bit count up. -/
def Obligations.ExtractGathersMaskedBits : Prop :=
  ∀ (N : Nat) (b m : BitVec N),
    (∀ p, m.getLsbD p = true → (extract b m).getLsbD (rank m p) = b.getLsbD p) ∧
      ∀ k, popcount m ≤ k → (extract b m).getLsbD k = false

/-- 42_pbd R85: deposit and extract under one mask are inverse up to the mask's capacity. -/
def Obligations.DepositAndExtractAreInverse : Prop :=
  ∀ (N : Nat) (a b m : BitVec N),
    (extract (deposit a m) m).toNat = a.toNat % 2 ^ popcount m ∧ deposit (extract b m) m = b &&& m

/-- 00_scope R16: the interleave masks at every index width, and their set-bit counts. -/
def Obligations.InterleaveMasksAreTheTable : Prop :=
  (evenMask 8 = 0x55#8 ∧ oddMask 8 = 0xAA#8 ∧ x3Mask 8 = 0x49#8 ∧ y3Mask 8 = 0x92#8 ∧ z3Mask 8 = 0x24#8) ∧
  (evenMask 16 = 0x5555#16 ∧ oddMask 16 = 0xAAAA#16 ∧ x3Mask 16 = 0x9249#16 ∧ y3Mask 16 = 0x2492#16 ∧
    z3Mask 16 = 0x4924#16) ∧
  (evenMask 32 = 0x55555555#32 ∧ oddMask 32 = 0xAAAAAAAA#32 ∧ x3Mask 32 = 0x49249249#32 ∧
    y3Mask 32 = 0x92492492#32 ∧ z3Mask 32 = 0x24924924#32) ∧
  (evenMask 64 = 0x5555555555555555#64 ∧ oddMask 64 = 0xAAAAAAAAAAAAAAAA#64 ∧ x3Mask 64 = 0x9249249249249249#64 ∧
    y3Mask 64 = 0x2492492492492492#64 ∧ z3Mask 64 = 0x4924924924924924#64) ∧
  ∀ c : Config, popcount (evenMask c.M) = c.M / 2 ∧ popcount (oddMask c.M) = c.M / 2 ∧
    popcount (x3Mask c.M) = axisCapacity c.M 0 ∧ popcount (y3Mask c.M) = axisCapacity c.M 1 ∧
    popcount (z3Mask c.M) = axisCapacity c.M 2

/-- 20_memory R35 to R39: what `RomRead` returns, bit by bit, for every index of the four tables. -/
def Obligations.TablesHoldTheirContents : Prop :=
  (∀ (b : BitVec 8) (p : Nat), (romRead .encode2d b).getLsbD p = (p % 2 == 0 && b.getLsbD (p / 2))) ∧
    (∀ (b : BitVec 8) (k : Nat), (romRead .decode2d b).getLsbD k = (decide (k < 4) && b.getLsbD (2 * k))) ∧
    (∀ (b : BitVec 8) (p : Nat), (romRead .encode3d b).getLsbD p = (p % 3 == 0 && b.getLsbD (p / 3))) ∧
    ∀ (g : BitVec 9) (k : Nat), (romRead .decode3d g).getLsbD k = (decide (k < 3) && g.getLsbD (3 * k))

/-- 40_lut R64, 41_magic R66, R72: the derived constants G(M), I(M), K(M) at each index width. -/
def Obligations.DerivedConstantsAreTheTable : Prop :=
  [8, 16, 32, 64].map groupCount = [1, 2, 4, 7] ∧
    [8, 16, 32, 64].map (fun M => (internalFor M).bits) = [32, 32, 32, 64] ∧
    [8, 16, 32, 64].map (fun M => carriedBits (internalFor M)) = [10, 10, 10, 21]

/-- 00_scope R11, R13: compacting what was spread gives it back, at every width. -/
def Obligations.CompactUndoesSpread : Prop :=
  ∀ (n : Nat) (a : BitVec n), compact2 (spread2 a) = a ∧ compact3 (spread3 a) = a

/-- 00_scope R17, R18: the 2D closed forms are the spread and compact forms the spec calls equivalent. -/
def Obligations.IdealInterleave2dBySpreadAndCompact : Prop :=
  (∀ (W M : Nat) (x y : BitVec W),
      ilv2 M x y = toWidth M (toWidth (2 * W + 1) (spread2 x) ||| shl (toWidth (2 * W + 1) (spread2 y)) 1)) ∧
    ∀ (c : Config) (v : BitVec c.M) (a : Nat), a < 2 →
      dilv2 c.W v a = toWidth c.W (compact2 (n := c.M / 2) (toWidth _ (shr v a)))

/-- 00_scope R19: the 3D closed form is the spread form the spec calls equivalent, with and without a limit. -/
def Obligations.IdealInterleave3dBySpread : Prop :=
  ∀ (W M : Nat) (x y z : BitVec W),
    (let e := fun a : BitVec W => toWidth (3 * W + 2) (spread3 a)
     ilv3 M x y z none = toWidth M (e x ||| shl (e y) 1 ||| shl (e z) 2)) ∧
    ∀ L : Nat,
      let e := fun a : BitVec W => toWidth (3 * W + 2) (spread3 (BitVec.ofNat W (a.toNat % 2 ^ L)))
      ilv3 M x y z (some L) = toWidth M (e x ||| shl (e y) 1 ||| shl (e z) 2)

/-- 41_magic R69: the net functions of the 2D step sequences at both internal widths. -/
def Obligations.MagicSequences2dNetFunctions : Prop :=
  (∀ a : BitVec 32,
      split2 .i32 a = spread2 (n := 16) (toWidth 16 a) ∧
      get2 .i32 a = toWidth 32 (compact2 (n := 16) a) ∧
      get2 .i32 (split2 .i32 a) = toWidth 32 (toWidth 16 a)) ∧
    ∀ a : BitVec 64,
      split2 .i64 a = spread2 (n := 32) (toWidth 32 a) ∧
      get2 .i64 a = toWidth 64 (compact2 (n := 32) a) ∧
      get2 .i64 (split2 .i64 a) = toWidth 64 (toWidth 32 a)

/-- 41_magic R74: the net functions of the 3D step sequences, with K = 10 at I = 32 and K = 21 at I = 64. -/
def Obligations.MagicSequences3dNetFunctions : Prop :=
  ∀ (I : Internal) (a : BitVec I.bits),
    split3 I a = toWidth I.bits (spread3 (toWidth (carriedBits I) a)) ∧
      get3 I a = ofBits I.bits (fun k => decide (k < carriedBits I) && a.getLsbD (3 * k)) ∧
      get3 I (split3 I a) = toWidth I.bits (toWidth (carriedBits I) a)

/-! ## The twelve operations: result, completion and frame -/

/-- 40_lut R60: `morton_2d_encode_lut` gives `r = ilv2_M(x, y)`. -/
def Obligations.Morton2dEncodeLutInterleaves : Prop :=
  ∀ s : State, exec .morton2dEncodeLut s = .next { s with out := ⟨ilv2 s.cfg.M s.inp.x s.inp.y, 0#_, 0#_, 0#_⟩ }

/-- 40_lut R62: `morton_2d_decode_lut` gives `cx = dilv2_W(v, 0)` and `cy = dilv2_W(v, 1)`. -/
def Obligations.Morton2dDecodeLutDeinterleaves : Prop :=
  ∀ s : State, exec .morton2dDecodeLut s =
    .next { s with out := ⟨0#_, dilv2 s.cfg.W s.inp.v 0, dilv2 s.cfg.W s.inp.v 1, 0#_⟩ }

/-- 40_lut R63, R65: `morton_3d_encode_lut` gives the full 3D interleave. -/
def Obligations.Morton3dEncodeLutInterleaves : Prop :=
  ∀ s : State, exec .morton3dEncodeLut s =
    .next { s with out := ⟨ilv3 s.cfg.M s.inp.x s.inp.y s.inp.z none, 0#_, 0#_, 0#_⟩ }

/-- 40_lut R64, R65: `morton_3d_decode_lut` de-interleaves below the limit 3 * G(M); the limit excludes no bit at
M = 8, 16, 32 and exactly `v[63]` at M = 64. -/
def Obligations.Morton3dDecodeLutDeinterleaves : Prop :=
  ∀ s : State,
    let L := some (3 * groupCount s.cfg.M)
    exec .morton3dDecodeLut s =
      .next { s with out := ⟨0#_, dilv3 s.cfg.W s.inp.v 0 L, dilv3 s.cfg.W s.inp.v 1 L, dilv3 s.cfg.W s.inp.v 2 L⟩ } ∧
    (s.cfg.M ≤ 32 → ∀ a, a < 3 → dilv3 s.cfg.W s.inp.v a L = dilv3 s.cfg.W s.inp.v a none) ∧
    (s.cfg.M = 64 → ∀ a, a < 3 →
      dilv3 s.cfg.W s.inp.v a L = dilv3 s.cfg.W (clearBoundary s.inp.v) a none)

/-- 41_magic R70: `morton_2d_encode_magic` gives `r = ilv2_M(x, y)`. -/
def Obligations.Morton2dEncodeMagicInterleaves : Prop :=
  ∀ s : State, exec .morton2dEncodeMagic s = .next { s with out := ⟨ilv2 s.cfg.M s.inp.x s.inp.y, 0#_, 0#_, 0#_⟩ }

/-- 41_magic R71: `morton_2d_decode_magic` gives `cx = dilv2_W(v, 0)` and `cy = dilv2_W(v, 1)`. -/
def Obligations.Morton2dDecodeMagicDeinterleaves : Prop :=
  ∀ s : State, exec .morton2dDecodeMagic s =
    .next { s with out := ⟨0#_, dilv2 s.cfg.W s.inp.v 0, dilv2 s.cfg.W s.inp.v 1, 0#_⟩ }

/-- 41_magic R76: `morton_3d_encode_magic` gives the 3D interleave of the low K(M) bits of each coordinate. -/
def Obligations.Morton3dEncodeMagicInterleaves : Prop :=
  ∀ s : State,
    exec .morton3dEncodeMagic s =
      .next { s with
        out := ⟨ilv3 s.cfg.M s.inp.x s.inp.y s.inp.z (some (if s.cfg.M = 64 then 21 else 10)), 0#_, 0#_, 0#_⟩ }

/-- 41_magic R77: `morton_3d_decode_magic` de-interleaves below the limit K(M). -/
def Obligations.Morton3dDecodeMagicDeinterleaves : Prop :=
  ∀ s : State,
    let K := some (if s.cfg.M = 64 then 21 else 10)
    exec .morton3dDecodeMagic s =
      .next { s with out := ⟨0#_, dilv3 s.cfg.W s.inp.v 0 K, dilv3 s.cfg.W s.inp.v 1 K, dilv3 s.cfg.W s.inp.v 2 K⟩ }

/-- 42_pbd R81: `morton_2d_encode_pbd` gives `r = ilv2_M(x, y)`. -/
def Obligations.Morton2dEncodePbdInterleaves : Prop :=
  ∀ s : State, exec .morton2dEncodePbd s = .next { s with out := ⟨ilv2 s.cfg.M s.inp.x s.inp.y, 0#_, 0#_, 0#_⟩ }

/-- 42_pbd R82: `morton_2d_decode_pbd` gives `cx = dilv2_W(v, 0)` and `cy = dilv2_W(v, 1)`. -/
def Obligations.Morton2dDecodePbdDeinterleaves : Prop :=
  ∀ s : State, exec .morton2dDecodePbd s =
    .next { s with out := ⟨0#_, dilv2 s.cfg.W s.inp.v 0, dilv2 s.cfg.W s.inp.v 1, 0#_⟩ }

/-- 42_pbd R83: `morton_3d_encode_pbd` gives the full 3D interleave. -/
def Obligations.Morton3dEncodePbdInterleaves : Prop :=
  ∀ s : State, exec .morton3dEncodePbd s =
    .next { s with out := ⟨ilv3 s.cfg.M s.inp.x s.inp.y s.inp.z none, 0#_, 0#_, 0#_⟩ }

/-- 42_pbd R84: `morton_3d_decode_pbd` de-interleaves with no limit. -/
def Obligations.Morton3dDecodePbdDeinterleaves : Prop :=
  ∀ s : State, exec .morton3dDecodePbd s =
    .next { s with
      out := ⟨0#_, dilv3 s.cfg.W s.inp.v 0 none, dilv3 s.cfg.W s.inp.v 1 none, dilv3 s.cfg.W s.inp.v 2 none⟩ }

/-- 40_lut R59, R63; 41_magic R70, R76; 42_pbd R81, R83: what an encode of all-ones coordinates returns. -/
def Obligations.EncodesOfAllOnes : Prop :=
  ∀ (c : Config) (op : OpCode) (z : BitVec c.W) (v : BitVec c.M) (out : Outputs c) (C : Strategy),
    let ones := BitVec.allOnes c.W
    (∃ o : Outputs c, Drives (.ofFields C .d2 .encode) ⟨c, op, ⟨ones, ones, z, v⟩, out⟩ o ∧
      o.r.toNat = 2 ^ min c.M (2 * c.W) - 1) ∧
    ∃ o : Outputs c, Drives (.ofFields C .d3 .encode) ⟨c, op, ⟨ones, ones, ones, v⟩, out⟩ o ∧
      o.r.toNat = 2 ^ min c.M (3 * capBy c.W (encodeLimit C c.M)) - 1

/-! ## Laws between the operations -/

/-- 43_laws R88: the 2D round trip keeps the low min(W, M/2) bits of each coordinate, for every pair of strategies. -/
def Obligations.RoundTrip2d : Prop :=
  ∀ (s : State) (dec enc : Strategy), ∃ o₁ o₂ : Outputs s.cfg,
    Drives (.ofFields enc .d2 .encode) s o₁ ∧
      Drives (.ofFields dec .d2 .decode) (s.drive o₁).feedIndex o₂ ∧
      o₂.cx.toNat = s.inp.x.toNat % 2 ^ min s.cfg.W (s.cfg.M / 2) ∧
      o₂.cy.toNat = s.inp.y.toNat % 2 ^ min s.cfg.W (s.cfg.M / 2)

/-- 43_laws R89: the 3D round trip keeps the low n_a bits of axis a, for every pair of strategies; and the counts for
one strategy on both sides at W = M. -/
def Obligations.RoundTrip3d : Prop :=
  (∀ (s : State) (dec enc : Strategy), ∃ o₁ o₂ : Outputs s.cfg,
    Drives (.ofFields enc .d3 .encode) s o₁ ∧
      Drives (.ofFields dec .d3 .decode) (s.drive o₁).feedIndex o₂ ∧
      o₂.cx.toNat = s.inp.x.toNat % 2 ^ survivingBits s.cfg dec enc 0 ∧
      o₂.cy.toNat = s.inp.y.toNat % 2 ^ survivingBits s.cfg dec enc 1 ∧
      o₂.cz.toNat = s.inp.z.toNat % 2 ^ survivingBits s.cfg dec enc 2) ∧
  ∀ c : Config, c.W = c.M →
    [Strategy.lut, .magic, .pbd].map (fun C => [0, 1, 2].map (survivingBits c C C)) =
      if c.M = 8 then [[3, 3, 2], [3, 3, 2], [3, 3, 2]]
      else if c.M = 16 then [[6, 5, 5], [6, 5, 5], [6, 5, 5]]
      else if c.M = 32 then [[11, 11, 10], [10, 10, 10], [11, 11, 10]]
      else [[21, 21, 21], [21, 21, 21], [22, 21, 21]]

/-- 43_laws R90: the index round trip keeps `v mod 2^min(M, 2W)` in 2D and `v & KEEP` in 3D, for every pair of
strategies; and the values of KEEP for one strategy on both sides at W = M. -/
def Obligations.IndexRoundTrip : Prop :=
  (∀ (s : State) (dec enc : Strategy),
    (∃ o₁ o₂ : Outputs s.cfg,
      Drives (.ofFields dec .d2 .decode) s o₁ ∧
        Drives (.ofFields enc .d2 .encode) (s.drive o₁).feedCoords o₂ ∧
        o₂.r.toNat = s.inp.v.toNat % 2 ^ min s.cfg.M (2 * s.cfg.W)) ∧
    ∃ o₁ o₂ : Outputs s.cfg,
      Drives (.ofFields dec .d3 .decode) s o₁ ∧
        Drives (.ofFields enc .d3 .encode) (s.drive o₁).feedCoords o₂ ∧
        o₂.r = s.inp.v &&& keepMask s.cfg dec enc) ∧
  ∀ c : Config, c.W = c.M →
    [Strategy.lut, .magic, .pbd].map (fun C => (keepMask c C C).toNat) =
      if c.M = 8 then [0xFF, 0xFF, 0xFF]
      else if c.M = 16 then [0xFFFF, 0xFFFF, 0xFFFF]
      else if c.M = 32 then [0xFFFFFFFF, 0x3FFFFFFF, 0xFFFFFFFF]
      else [0x7FFFFFFFFFFFFFFF, 0x7FFFFFFFFFFFFFFF, 0xFFFFFFFFFFFFFFFF]

/-- 43_laws R91: decoding and encoding twice is the same as once, for every strategy and dimension. -/
def Obligations.DoubleIndexRoundTripIsIdempotent : Prop :=
  ∀ (s : State) (C : Strategy) (dim : Dim), ∃ o₁ o₂ o₃ o₄ : Outputs s.cfg,
    Drives (.ofFields C dim .decode) s o₁ ∧
      (let t := (s.drive o₁).feedCoords
       Drives (.ofFields C dim .encode) t o₂ ∧
       let u := (t.drive o₂).feedIndex
       Drives (.ofFields C dim .decode) u o₃ ∧
       let w := (u.drive o₃).feedCoords
       Drives (.ofFields C dim .encode) w o₄) ∧
      o₄.r = o₂.r

/-- 43_laws R92: encode, decode, encode with one strategy gives the first index again, except in exactly one case: the
lookup tables in 3D at M = 64 with `x[21] = 1`. -/
def Obligations.SameStrategyClosureWithOneException : Prop :=
  ∀ (s : State) (C : Strategy) (dim : Dim), ∃ o₁ o₂ o₃ : Outputs s.cfg,
    Drives (.ofFields C dim .encode) s o₁ ∧
      (let t := (s.drive o₁).feedIndex
       Drives (.ofFields C dim .decode) t o₂ ∧
       Drives (.ofFields C dim .encode) (t.drive o₂).feedCoords o₃) ∧
      (o₃.r = o₁.r ↔ ¬ (C = .lut ∧ dim = .d3 ∧ s.cfg.M = 64 ∧ s.inp.x.getLsbD 21 = true))

/-- 43_laws R93: in 2D the three strategies are one function, the ideal interleave and de-interleave; and re-encoding
any of the decoded pairs by any strategy reproduces the index whenever W >= M/2. -/
def Obligations.StrategiesAgreeIn2d : Prop :=
  (∀ (s : State) (C : Strategy),
    exec (.ofFields C .d2 .encode) s = .next { s with out := .index (ilv2 s.cfg.M s.inp.x s.inp.y) } ∧
    exec (.ofFields C .d2 .decode) s =
      .next { s with out := .pair (dilv2 s.cfg.W s.inp.v 0) (dilv2 s.cfg.W s.inp.v 1) }) ∧
  ∀ (s : State) (dec enc : Strategy), s.cfg.M / 2 ≤ s.cfg.W → ∃ o₁ o₂ : Outputs s.cfg,
    Drives (.ofFields dec .d2 .decode) s o₁ ∧
      Drives (.ofFields enc .d2 .encode) (s.drive o₁).feedCoords o₂ ∧ o₂.r = s.inp.v

/-- 43_laws R94: the complete list of the differences between the strategies in 3D. -/
def Obligations.DivergenceIn3dIsTheCompleteList : Prop :=
  ∀ s : State,
    exec .morton3dEncodeLut s = exec .morton3dEncodePbd s ∧
    (s.cfg.M ≤ 32 → exec .morton3dDecodeLut s = exec .morton3dDecodePbd s) ∧
    (s.cfg.M ≤ 16 → ∀ (C₁ C₂ : Strategy) (dir : Dir),
      exec (.ofFields C₁ .d3 dir) s = exec (.ofFields C₂ .d3 dir) s) ∧
    (s.cfg.M = 32 → ∃ m p : Outputs s.cfg,
      Drives .morton3dEncodeMagic s m ∧ Drives .morton3dEncodePbd s p ∧
        (∀ k, k < 30 → m.r.getLsbD k = p.r.getLsbD k) ∧
        m.r.getLsbD 30 = false ∧ m.r.getLsbD 31 = false ∧
        p.r.getLsbD 30 = s.inp.x.getLsbD 10 ∧ p.r.getLsbD 31 = s.inp.y.getLsbD 10) ∧
    (s.cfg.M = 32 → ∃ m p : Outputs s.cfg,
      Drives .morton3dDecodeMagic s m ∧ Drives .morton3dDecodePbd s p ∧
        m.cz = p.cz ∧
        (∀ k, k ≠ 10 → m.cx.getLsbD k = p.cx.getLsbD k ∧ m.cy.getLsbD k = p.cy.getLsbD k) ∧
        m.cx.getLsbD 10 = false ∧ m.cy.getLsbD 10 = false ∧
        p.cx.getLsbD 10 = (decide (16 ≤ s.cfg.W) && s.inp.v.getLsbD 30) ∧
        p.cy.getLsbD 10 = (decide (16 ≤ s.cfg.W) && s.inp.v.getLsbD 31)) ∧
    (s.cfg.M = 64 → ∃ m p : Outputs s.cfg,
      Drives .morton3dEncodeMagic s m ∧ Drives .morton3dEncodePbd s p ∧
        (∀ k, k < 63 → m.r.getLsbD k = p.r.getLsbD k) ∧
        m.r.getLsbD 63 = false ∧ p.r.getLsbD 63 = s.inp.x.getLsbD 21) ∧
    (s.cfg.M = 64 → ∃ m p : Outputs s.cfg,
      Drives .morton3dDecodeMagic s m ∧ Drives .morton3dDecodeLut s m ∧ Drives .morton3dDecodePbd s p ∧
        m.cy = p.cy ∧ m.cz = p.cz ∧
        (∀ k, k ≠ 21 → m.cx.getLsbD k = p.cx.getLsbD k) ∧
        m.cx.getLsbD 21 = false ∧
        p.cx.getLsbD 21 = (decide (32 ≤ s.cfg.W) && s.inp.v.getLsbD 63))

/-- 43_laws R95: after the boundary bits are cleared the three strategies agree on the 3D decode, and re-encoding by any
of them gives the cleared index, cut to 3W bits where the coordinates are too narrow. -/
def Obligations.AgreementIn3dAfterClearingTheBoundary : Prop :=
  ∀ (s : State) (dec enc : Strategy),
    let t : State := { s with inp := { s.inp with v := clearBoundary s.inp.v } }
    exec (.ofFields dec .d3 .decode) t = exec (.ofFields enc .d3 .decode) t ∧
    ∃ o₁ o₂ : Outputs s.cfg,
      Drives (.ofFields dec .d3 .decode) t o₁ ∧
        Drives (.ofFields enc .d3 .encode) (t.drive o₁).feedCoords o₂ ∧
        o₂.r.toNat = (clearBoundary s.inp.v).toNat % 2 ^ (3 * s.cfg.W)

/-- 43_laws R96: each table entry is what the other strategies compute of its index. -/
def Obligations.TablesAgreeWithTheOperations : Prop :=
  (∀ (C : Strategy) (op : OpCode) (b b' z : BitVec 8) (v : BitVec 16)
      (out : Outputs ⟨.w8, .w16, by decide⟩),
    ∃ o : Outputs ⟨.w8, .w16, by decide⟩,
      Drives (.ofFields C .d2 .encode) ⟨⟨.w8, .w16, by decide⟩, op, ⟨b, b', z, v⟩, out⟩ o ∧
        o.r = romRead .encode2d b ||| shl (romRead .encode2d b') 1) ∧
  (∀ (op : OpCode) (b x y z : BitVec 8) (out : Outputs ⟨.w8, .w8, by decide⟩),
    ∃ o : Outputs ⟨.w8, .w8, by decide⟩,
      Drives .morton2dDecodePbd ⟨⟨.w8, .w8, by decide⟩, op, ⟨x, y, z, b⟩, out⟩ o ∧
        o.cx = toWidth 8 (romRead .decode2d b)) ∧
  (∀ (op : OpCode) (b : BitVec 8) (v : BitVec 32) (out : Outputs ⟨.w8, .w32, by decide⟩),
    ∃ o : Outputs ⟨.w8, .w32, by decide⟩,
      Drives .morton3dEncodePbd ⟨⟨.w8, .w32, by decide⟩, op, ⟨b, 0#8, 0#8, v⟩, out⟩ o ∧
        o.r = toWidth 32 (romRead .encode3d b)) ∧
  ∀ (op : OpCode) (g : BitVec 9) (x y z : BitVec 16) (out : Outputs ⟨.w16, .w16, by decide⟩),
    ∃ o : Outputs ⟨.w16, .w16, by decide⟩,
      Drives .morton3dDecodePbd ⟨⟨.w16, .w16, by decide⟩, op, ⟨x, y, z, toWidth 16 g⟩, out⟩ o ∧
        o.cx = toWidth 16 (romRead .decode3d g)

/-- 43_laws R97: every operation is a wiring: each output bit is one fixed input bit or the constant 0, and no input bit
feeds more than one output bit. -/
def Obligations.EveryOperationIsAWiring : Prop :=
  ∀ (c : Config) (i : Instr), ∃ wire : OutPort → Nat → Option (InPort × Nat),
    (∀ P p Q q, wire P p = some (Q, q) → Q ∈ reads i ∧ q < Q.width c) ∧
    (∀ P p P' p' b, wire P p = some b → wire P' p' = some b → P = P' ∧ p = p') ∧
    ∀ (op : OpCode) (inp : Inputs c) (out : Outputs c), ∃ o : Outputs c,
      Drives i ⟨c, op, inp, out⟩ o ∧
        ∀ P p, outBit o P p =
          match wire P p with
          | none => false
          | some (Q, q) => inBit inp Q q

/-- 43_laws R97: every operation commutes with exclusive OR, OR and AND of its inputs and gives 0 on 0. -/
def Obligations.EveryOperationIsBitwise : Prop :=
  ∀ (i : Instr) (s : State) (b : Inputs s.cfg), ∃ oa ob oxor oor oand : Outputs s.cfg,
    Drives i s oa ∧ Drives i { s with inp := b } ob ∧
    Drives i { s with inp := bitwise (· ^^^ ·) s.inp b } oxor ∧
    Drives i { s with inp := bitwise (· ||| ·) s.inp b } oor ∧
    Drives i { s with inp := bitwise (· &&& ·) s.inp b } oand ∧
    Drives i { s with inp := Inputs.zero s.cfg } (Outputs.zero s.cfg) ∧
    ∀ P p, outBit oxor P p = (outBit oa P p ^^ outBit ob P p) ∧
      outBit oor P p = (outBit oa P p || outBit ob P p) ∧
      outBit oand P p = (outBit oa P p && outBit ob P p)

/-- 41_magic R78: at M = 8 and M = 16 the promotion to 32 bits is exact: the `_magic` operations return what the `_lut`
and `_pbd` operations of the same dimension and direction return. -/
def Obligations.PromotionOfNarrowWidthsIsExact : Prop :=
  ∀ (s : State) (C : Strategy) (dim : Dim) (dir : Dir), s.cfg.M ≤ 16 →
    exec (.ofFields .magic dim dir) s = exec (.ofFields C dim dir) s

/-- 43_laws R99: the document's dispatch patch, which no operation applies, turns the 3D `_magic` results into those of
`_pbd`, at W = M = 32 and at W = M = 64. -/
def Obligations.DispatchPatchTurnsMagicIntoPbd : Prop :=
  (∀ s : State, s.cfg.W = 32 → s.cfg.M = 32 → ∃ m p m' p' : Outputs s.cfg,
    Drives .morton3dEncodeMagic s m ∧ Drives .morton3dEncodePbd s p ∧
      Drives .morton3dDecodeMagic s m' ∧ Drives .morton3dDecodePbd s p' ∧
      p.r = m.r ||| shl (toWidth _ (BitVec.ofBool (s.inp.x.getLsbD 10))) 30 |||
        shl (toWidth _ (BitVec.ofBool (s.inp.y.getLsbD 10))) 31 ∧
      p'.cx = m'.cx ||| shl (toWidth _ (BitVec.ofBool (s.inp.v.getLsbD 30))) 10 ∧
      p'.cy = m'.cy ||| shl (toWidth _ (BitVec.ofBool (s.inp.v.getLsbD 31))) 10 ∧
      p'.cz = m'.cz) ∧
  ∀ s : State, s.cfg.W = 64 → s.cfg.M = 64 → ∃ m p m' p' : Outputs s.cfg,
    Drives .morton3dEncodeMagic s m ∧ Drives .morton3dEncodePbd s p ∧
      Drives .morton3dDecodeMagic s m' ∧ Drives .morton3dDecodePbd s p' ∧
      p.r = m.r ||| shl (toWidth _ (BitVec.ofBool (s.inp.x.getLsbD 21))) 63 ∧
      p'.cx = m'.cx ||| shl (toWidth _ (BitVec.ofBool (s.inp.v.getLsbD 63))) 21 ∧
      p'.cy = m'.cy ∧ p'.cz = m'.cz

/-! ## The whole machine -/

/-- 10_state R32, R33; 70 R115: the output ports are combinational. Whatever stood on the ports before, and before any
further evaluation, each action of the environment on the input ports leaves the outputs of the inputs it presents, in
closed form, and changes nothing else; a step on them then answers that same state. -/
def Obligations.OutputsFollowTheInputsAtEveryMoment : Prop :=
  (∀ (s : State) (w : OpCode) (a : Inputs s.cfg),
    Settled (s.present w a) ∧ (∃ o : Outputs s.cfg, s.present w a = ⟨s.cfg, w, a, o⟩) ∧
      ∀ i, decode w = .op i → step (s.present w a) = .next (s.present w a)) ∧
  (∀ (s : State) (nbits w : Nat),
    Settled (s.withFetchWord nbits w) ∧
      ∃ o : Outputs s.cfg, s.withFetchWord nbits w = ⟨s.cfg, opOfTableWord nbits w, s.inp, o⟩) ∧
  (∀ s : State,
    Settled s.feedIndex ∧ ∃ o : Outputs s.cfg, s.feedIndex = ⟨s.cfg, s.op, { s.inp with v := s.out.r }, o⟩) ∧
  ∀ s : State,
    Settled s.feedCoords ∧ ∃ o : Outputs s.cfg,
      s.feedCoords = ⟨s.cfg, s.op, { s.inp with x := s.out.cx, y := s.out.cy, z := s.out.cz }, o⟩

/-- 10_state R32: what an instance shows for the presented inputs does not depend on what its ports carried before. For a
reserved code too the model takes the outputs as a function of the inputs (log 13). -/
def Obligations.EarlierPortValuesHaveNoEffect : Prop :=
  ∀ (c : Config) (op op' w : OpCode) (inp inp' a : Inputs c) (out out' : Outputs c),
    State.present ⟨c, op, inp, out⟩ w a = State.present ⟨c, op', inp', out'⟩ w a

/-- 00_scope R22, 10_state R32: a settled state is exactly one that a further evaluation leaves as it is, and every
state a step reaches is one. -/
def Obligations.SettledStatesAreTheFixpoints : Prop :=
  (∀ s : State, step s = .next s ↔ s.op.toNat < 12 ∧ Settled s) ∧
    ∀ s t : State, step s = .next t → step t = .next t

/-- 10_state R26, R32; 00_scope R22: the invariant of the machine. From every state, settled or not, a step that
answers a next state reaches a settled one, whose outputs are the closed form of the presented operation; the parameters
and the input ports are kept; and from a settled state with a defined op code the step does answer. -/
def Obligations.EveryStepKeepsTheOutputsSettled : Prop :=
  (∀ s t : State, step s = .next t → Settled t ∧ ∃ o : Outputs s.cfg, t = { s with out := o }) ∧
    ∀ s : State, s.op.toNat < 12 → Settled s → ∃ t, step s = .next t ∧ Settled t
end

