-- ==== Sys2Proof/Laws/Bits.lean ====
section
/-!
SUPPORT. The primitive functions bit by bit: one lemma per definition of Machine/Bits, Machine/Operands and
Machine/Tables that says what each bit of it is, so that no later proof unfolds `ofBits`.
-/

namespace Sys2Proof.Machine

open Sys2Proof

/-- A value defined by bit position has the bits it is defined by (00_scope R5). -/
@[simp] theorem getLsbD_ofBits (n : Nat) (f : Nat → Bool) (p : Nat) :
    (ofBits n f).getLsbD p = (decide (p < n) && f p) := by
  induction n with
  | zero => simp [ofBits]
  | succ n ih =>
    rw [ofBits, BitVec.getLsbD_cons, ih]
    rcases Nat.lt_trichotomy p n with h | rfl | h
    · simp [h, Nat.ne_of_lt h, Nat.lt_succ_of_lt h]
    · simp
    · simp [Nat.ne_of_gt h, Nat.not_lt.mpr (Nat.le_of_lt h), Nat.not_lt.mpr h]

theorem getLsbD_spread2 {n : Nat} (a : BitVec n) (p : Nat) :
    (spread2 a).getLsbD p = (p % 2 == 0 && a.getLsbD (p / 2)) := by
  rw [spread2, getLsbD_ofBits]
  by_cases h : p < 2 * n
  · simp [h]
  · have : n ≤ p / 2 := by omega
    simp [h, BitVec.getLsbD_of_ge a _ this]

theorem getLsbD_compact2 {n : Nat} (b : BitVec (2 * n)) (k : Nat) :
    (compact2 b).getLsbD k = b.getLsbD (2 * k) := by
  rw [compact2, getLsbD_ofBits]
  by_cases h : k < n
  · simp [h]
  · simp [h, BitVec.getLsbD_of_ge b (2 * k) (by omega)]

theorem getLsbD_spread3 {n : Nat} (a : BitVec n) (p : Nat) :
    (spread3 a).getLsbD p = (p % 3 == 0 && a.getLsbD (p / 3)) := by
  rw [spread3, getLsbD_ofBits]
  by_cases h : p < 3 * n
  · simp [h]
  · have : n ≤ p / 3 := by omega
    simp [h, BitVec.getLsbD_of_ge a _ this]

theorem getLsbD_compact3 {n : Nat} (b : BitVec (3 * n)) (k : Nat) :
    (compact3 b).getLsbD k = b.getLsbD (3 * k) := by
  rw [compact3, getLsbD_ofBits]
  by_cases h : k < n
  · simp [h]
  · simp [h, BitVec.getLsbD_of_ge b (3 * k) (by omega)]

theorem getLsbD_byte {N : Nat} (a : BitVec N) (j p : Nat) :
    (byte a j).getLsbD p = (decide (p < 8) && a.getLsbD (8 * j + p)) := by
  simp [byte]

theorem getLsbD_group8 {N : Nat} (a : BitVec N) (j s p : Nat) :
    (group8 a j s).getLsbD p = (decide (p < 8) && a.getLsbD (8 * j + s + p)) := by
  simp [group8]

theorem getLsbD_group9 {N : Nat} (a : BitVec N) (j s p : Nat) :
    (group9 a j s).getLsbD p = (decide (p < 9) && a.getLsbD (9 * j + s + p)) := by
  simp [group9]

theorem romRead_encode2d (b : BitVec 8) : romRead .encode2d b = spread2 (n := 8) b := rfl
theorem romRead_decode2d (b : BitVec 8) : romRead .decode2d b = compact2 (n := 4) b := rfl
theorem romRead_encode3d (b : BitVec 8) : romRead .encode3d b = spread3 (n := 8) b := rfl
theorem romRead_decode3d (g : BitVec 9) : romRead .decode3d g = compact3 (n := 3) g := rfl

/-- `scaled` is the `trunc_M(2^s * e)` of 40_lut R59 and R63, whichever of M and the entry width is the larger. -/
theorem scaled_toNat {n : Nat} (M s : Nat) (e : BitVec n) : (scaled M s e).toNat = (2 ^ s * e.toNat) % 2 ^ M := by
  simp [scaled, shl, toWidth, Nat.shiftLeft_eq, Nat.mul_comm]

theorem rank_zero {N : Nat} (m : BitVec N) : rank m 0 = 0 := rfl

theorem rank_succ {N : Nat} (m : BitVec N) (p : Nat) :
    rank m (p + 1) = rank m p + (if m.getLsbD p then 1 else 0) := by
  simp [rank, List.range_succ, List.countP_append, List.countP_cons]

/-- The walk of a deposit counts the set bits of the mask it has passed (00_scope R14). -/
theorem depositWalk_snd {N : Nat} (a m : BitVec N) (p : Nat) : (depositWalk a m p).2 = rank m p := by
  induction p with
  | zero => rfl
  | succ p ih => rw [rank_succ, ← ih]; simp only [depositWalk]; split <;> simp_all

/-- The walk of an extract counts the set bits of the mask it has passed (00_scope R15). -/
theorem extractWalk_snd {N : Nat} (b m : BitVec N) (p : Nat) : (extractWalk b m p).2 = rank m p := by
  induction p with
  | zero => rfl
  | succ p ih => rw [rank_succ, ← ih]; simp only [extractWalk]; split <;> simp_all

end Sys2Proof.Machine
end

