-- ==== Sys2Proof/Laws/Families.lean ====
section
/-!
SUPPORT. The shared pieces of the three families bit by bit: the terms a table loop accumulates, one step of a magic
sequence, the interleave masks and the ideal interleaves.
-/

namespace Sys2Proof.Machine

open Sys2Proof

theorem getLsbD_scaled {n : Nat} (M s : Nat) (e : BitVec n) (p : Nat) :
    (scaled M s e).getLsbD p = (decide (p < M) && !decide (p < s) && e.getLsbD (p - s)) := by
  simp only [scaled, shl, toWidth, BitVec.getLsbD_shiftLeft, BitVec.getLsbD_setWidth]
  by_cases h : p < M
  · simp [h, Nat.lt_of_le_of_lt (Nat.sub_le p s) h]
  · simp [h]

theorem lutEncode2Loop_succ {W : Nat} (M : Nat) (x y : BitVec W) (j : Nat) (acc : BitVec M) :
    lutEncode2Loop M x y (j + 1) acc =
      lutEncode2Loop M x y j
        (shl acc 16 ||| scaled M 1 (romRead .encode2d (byte y j)) ||| scaled M 0 (romRead .encode2d (byte x j))) := rfl

theorem lutEncode3Loop_succ {W : Nat} (M : Nat) (x y z : BitVec W) (j : Nat) (acc : BitVec M) :
    lutEncode3Loop M x y z (j + 1) acc =
      lutEncode3Loop M x y z j
        (shl acc 24 ||| scaled M 2 (romRead .encode3d (byte z j)) ||| scaled M 1 (romRead .encode3d (byte y j)) |||
          scaled M 0 (romRead .encode3d (byte x j))) := rfl

theorem lutDecode2Loop_succ {M : Nat} (v : BitVec M) (a i : Nat) :
    lutDecode2Loop v a (i + 1) =
      lutDecode2Loop v a i ||| shl (toWidth M (romRead .decode2d (group8 v i a))) (4 * i) := rfl

theorem lutDecode3Loop_succ {M : Nat} (v : BitVec M) (a i : Nat) :
    lutDecode3Loop v a (i + 1) =
      lutDecode3Loop v a i ||| shl (toWidth M (romRead .decode3d (group9 v i a))) (3 * i) := rfl

theorem getLsbD_spreadStep {I : Nat} (s : Nat) (mask t : BitVec I) (p : Nat) :
    (spreadStep s mask t).getLsbD p =
      ((t.getLsbD p || (decide (p < I) && !decide (p < s) && t.getLsbD (p - s))) && mask.getLsbD p) := by
  simp [spreadStep]

theorem getLsbD_gatherStep {I : Nat} (s : Nat) (mask t : BitVec I) (p : Nat) :
    (gatherStep s mask t).getLsbD p = ((t.getLsbD p ^^ t.getLsbD (s + p)) && mask.getLsbD p) := by
  simp [gatherStep]

theorem getLsbD_evenMask (M p : Nat) : (evenMask M).getLsbD p = (decide (p < M) && p % 2 == 0) :=
  getLsbD_ofBits _ _ _

theorem getLsbD_oddMask (M p : Nat) : (oddMask M).getLsbD p = (decide (p < M) && p % 2 == 1) :=
  getLsbD_ofBits _ _ _

theorem getLsbD_x3Mask (M p : Nat) : (x3Mask M).getLsbD p = (decide (p < M) && p % 3 == 0) :=
  getLsbD_ofBits _ _ _

theorem getLsbD_y3Mask (M p : Nat) : (y3Mask M).getLsbD p = (decide (p < M) && p % 3 == 1) :=
  getLsbD_ofBits _ _ _

theorem getLsbD_z3Mask (M p : Nat) : (z3Mask M).getLsbD p = (decide (p < M) && p % 3 == 2) :=
  getLsbD_ofBits _ _ _

theorem getLsbD_dilv2 {M : Nat} (W : Nat) (v : BitVec M) (a k : Nat) :
    (dilv2 W v a).getLsbD k = (decide (k < W) && v.getLsbD (2 * k + a)) :=
  getLsbD_ofBits _ _ _

theorem getLsbD_dilv3 {M : Nat} (W : Nat) (v : BitVec M) (a : Nat) (L : Option Nat) (k : Nat) :
    (dilv3 W v a L).getLsbD k = (decide (k < W) && (below k L && v.getLsbD (3 * k + a))) :=
  getLsbD_ofBits _ _ _

/-- The widths of every configuration are whole bytes, so the byte loops of 40_lut have no remainder (00_scope R3). -/
theorem width_cases (w : Width) : w.bits = 8 ∨ w.bits = 16 ∨ w.bits = 32 ∨ w.bits = 64 := by
  cases w <;> simp [Width.bits]

end Sys2Proof.Machine
end

