-- ==== Sys2Proof/Laws/State.lean ====
section
/-!
SUPPORT. One lemma per field per update of the state, and the one lemma that says everything `answer` can do: later
proofs cite these and unfold no record update.
-/

namespace Sys2Proof.Machine

open Sys2Proof

@[simp] theorem drive_cfg (s : State) (o : Outputs s.cfg) : (s.drive o).cfg = s.cfg := rfl
@[simp] theorem drive_op (s : State) (o : Outputs s.cfg) : (s.drive o).op = s.op := rfl
@[simp] theorem drive_inp (s : State) (o : Outputs s.cfg) : (s.drive o).inp = s.inp := rfl
@[simp] theorem drive_out (s : State) (o : Outputs s.cfg) : (s.drive o).out = o := rfl

@[simp] theorem present_cfg (s : State) (w : OpCode) (a : Inputs s.cfg) : (s.present w a).cfg = s.cfg := rfl
@[simp] theorem present_op (s : State) (w : OpCode) (a : Inputs s.cfg) : (s.present w a).op = w := rfl
@[simp] theorem present_inp (s : State) (w : OpCode) (a : Inputs s.cfg) : (s.present w a).inp = a := rfl
@[simp] theorem present_out (s : State) (w : OpCode) (a : Inputs s.cfg) : (s.present w a).out = drivenOutputs w a := rfl

@[simp] theorem settle_cfg (s : State) : s.settle.cfg = s.cfg := rfl
@[simp] theorem settle_op (s : State) : s.settle.op = s.op := rfl
@[simp] theorem settle_inp (s : State) : s.settle.inp = s.inp := rfl
@[simp] theorem settle_out (s : State) : s.settle.out = drivenOutputs s.op s.inp := rfl

@[simp] theorem feedIndex_cfg (s : State) : s.feedIndex.cfg = s.cfg := rfl
@[simp] theorem feedIndex_op (s : State) : s.feedIndex.op = s.op := rfl
@[simp] theorem feedIndex_out (s : State) : s.feedIndex.out = drivenOutputs s.op s.feedIndex.inp := rfl
@[simp] theorem feedIndex_x (s : State) : s.feedIndex.inp.x = s.inp.x := rfl
@[simp] theorem feedIndex_y (s : State) : s.feedIndex.inp.y = s.inp.y := rfl
@[simp] theorem feedIndex_z (s : State) : s.feedIndex.inp.z = s.inp.z := rfl
@[simp] theorem feedIndex_v (s : State) : s.feedIndex.inp.v = s.out.r := rfl

@[simp] theorem feedCoords_cfg (s : State) : s.feedCoords.cfg = s.cfg := rfl
@[simp] theorem feedCoords_op (s : State) : s.feedCoords.op = s.op := rfl
@[simp] theorem feedCoords_out (s : State) : s.feedCoords.out = drivenOutputs s.op s.feedCoords.inp := rfl
@[simp] theorem feedCoords_x (s : State) : s.feedCoords.inp.x = s.out.cx := rfl
@[simp] theorem feedCoords_y (s : State) : s.feedCoords.inp.y = s.out.cy := rfl
@[simp] theorem feedCoords_z (s : State) : s.feedCoords.inp.z = s.out.cz := rfl
@[simp] theorem feedCoords_v (s : State) : s.feedCoords.inp.v = s.inp.v := rfl

@[simp] theorem withFetchWord_cfg (s : State) (nbits w : Nat) : (s.withFetchWord nbits w).cfg = s.cfg := rfl
@[simp] theorem withFetchWord_op (s : State) (nbits w : Nat) : (s.withFetchWord nbits w).op = opOfTableWord nbits w := rfl
@[simp] theorem withFetchWord_inp (s : State) (nbits w : Nat) : (s.withFetchWord nbits w).inp = s.inp := rfl
@[simp] theorem withFetchWord_out (s : State) (nbits w : Nat) :
    (s.withFetchWord nbits w).out = drivenOutputs (opOfTableWord nbits w) s.inp := rfl

@[simp] theorem index_r {c : Config} (a : BitVec c.M) : (Outputs.index a).r = a := rfl
@[simp] theorem index_cx {c : Config} (a : BitVec c.M) : (Outputs.index a).cx = 0#_ := rfl
@[simp] theorem index_cy {c : Config} (a : BitVec c.M) : (Outputs.index a).cy = 0#_ := rfl
@[simp] theorem index_cz {c : Config} (a : BitVec c.M) : (Outputs.index a).cz = 0#_ := rfl

@[simp] theorem pair_r {c : Config} (a b : BitVec c.W) : (Outputs.pair a b).r = 0#_ := rfl
@[simp] theorem pair_cx {c : Config} (a b : BitVec c.W) : (Outputs.pair a b).cx = a := rfl
@[simp] theorem pair_cy {c : Config} (a b : BitVec c.W) : (Outputs.pair a b).cy = b := rfl
@[simp] theorem pair_cz {c : Config} (a b : BitVec c.W) : (Outputs.pair a b).cz = 0#_ := rfl

@[simp] theorem triple_r {c : Config} (a b d : BitVec c.W) : (Outputs.triple a b d).r = 0#_ := rfl
@[simp] theorem triple_cx {c : Config} (a b d : BitVec c.W) : (Outputs.triple a b d).cx = a := rfl
@[simp] theorem triple_cy {c : Config} (a b d : BitVec c.W) : (Outputs.triple a b d).cy = b := rfl
@[simp] theorem triple_cz {c : Config} (a b d : BitVec c.W) : (Outputs.triple a b d).cz = d := rfl

/-- Everything an evaluation that drives `o` can do: it ends in a next state that differs in the output ports only. -/
theorem answer_next {s t : State} {o : Outputs s.cfg} (h : answer s o = .next t) : t = { s with out := o } := by
  simpa [answer, State.drive, eq_comm] using h

/-- The two answers a step can give, and when. -/
theorem step_cases (s : State) :
    (∃ i, decode s.op = .op i ∧ step s = exec i s) ∨
      (∃ code, decode s.op = .reserved code ∧ step s = .refused (.reservedOp code)) := by
  cases h : decode s.op with
  | op i => exact .inl ⟨i, rfl, by simp [step, h]⟩
  | reserved code => exact .inr ⟨code, rfl, by simp [step, h]⟩

/-- Everything `exec` can do: it ends in a next state whose output ports carry `outputsOf` of the operation. -/
theorem exec_eq_answer (i : Instr) (s : State) : exec i s = answer s (outputsOf i s.inp) := by
  cases i <;> rfl

/-- What the output ports carry while a defined code is presented. -/
theorem drivenOutputs_of_decode {c : Config} {w : OpCode} {i : Instr} (h : decode w = .op i) (a : Inputs c) :
    drivenOutputs w a = outputsOf i a := by simp [drivenOutputs, h]

/-- What the output ports carry while a reserved code is presented. -/
theorem drivenOutputs_of_reserved {c : Config} {w code : OpCode} (h : decode w = .reserved code) (a : Inputs c) :
    drivenOutputs w a = reservedOutputs code a := by simp [drivenOutputs, h]

/-- A step that answers a next state answers the settled state. -/
theorem step_next {s t : State} (h : step s = .next t) : t = s.settle := by
  obtain ⟨i, hd, he⟩ | ⟨code, -, he⟩ := step_cases s
  · rw [he, exec_eq_answer] at h
    rw [answer_next h, State.settle, drivenOutputs_of_decode hd, State.drive]
  · simp [he] at h

end Sys2Proof.Machine
end

