-- ==== Sys2Proof/Machine/Flags.lean ====
section
/-!
DEFINITION. The flags. There are none: "No operation sets or reads a status bit" (10_state R117), and every operation
rule says "Flags written: none". So this file defines nothing, and `State` has no flag.
-/
end

