-- ==== Sys2Proof/Tests/Slice0.lean ====
section
/-!
SUPPORT. Checks of the model on the spec's own values: the decodings of 30_encoding and 95_test_vectors section 6, the
document's worked examples S1 to S3 and the derived vectors of 95_test_vectors sections 2 to 4, the listing rows of
20_memory, and a witness for every statement that has hypotheses. Every expected value is copied from spec/.
-/

namespace Sys2Proof.Tests

open Sys2Proof Sys2Proof.Machine

/-- A state of configuration `c` with `op`, `x`, `y`, `z`, `v` on the input ports and, against 10_state R32, every output
port at 1: a value no encode or decode below leaves on a port it must drive with 0, so a test sees what a step drives. -/
def unit (c : Config) (op x y z v : Nat) : State :=
  ⟨c, BitVec.ofNat 4 op, ⟨BitVec.ofNat _ x, BitVec.ofNat _ y, BitVec.ofNat _ z, BitVec.ofNat _ v⟩,
    ⟨1#_, 1#_, 1#_, 1#_⟩⟩

/-- The outputs (r, cx, cy, cz) of a next state, as numbers. -/
def outs : Host.Outcome State Fault Refusal → Option (List Nat)
  | .next t => some [t.out.r.toNat, t.out.cx.toNat, t.out.cy.toNat, t.out.cz.toNat]
  | .refused _ => none

/-- The refusal of a step, where it refuses. -/
def refusal : Host.Outcome State Fault Refusal → Option Refusal
  | .next _ => none
  | .refused r => some r

def c8_8 : Config := ⟨.w8, .w8, by decide⟩
def c8_32 : Config := ⟨.w8, .w32, by decide⟩
def c16_16 : Config := ⟨.w16, .w16, by decide⟩
def c16_32 : Config := ⟨.w16, .w32, by decide⟩
def c32_32 : Config := ⟨.w32, .w32, by decide⟩
def c32_64 : Config := ⟨.w32, .w64, by decide⟩
def c64_64 : Config := ⟨.w64, .w64, by decide⟩

/-! ## Well-formedness: one ill-formed term per check (30_encoding R53; 00_scope R3) -/

theorem test_reserved_codes_are_ill_formed :
    [12#4, 13#4, 14#4, 15#4].map wellFormedOp = [false, false, false, false] := by decide
theorem test_defined_codes_are_well_formed : ∀ w : OpCode, w.toNat < 12 → wellFormedOp w = true := by decide
theorem test_index_narrower_than_coordinate_is_ill_formed : wellFormedPair 16 8 = false := by decide
theorem test_other_widths_are_ill_formed : wellFormedPair 12 16 = false ∧ wellFormedPair 8 128 = false := by decide
theorem test_refused_pair_is_named : refusal (instantiate 64 32) = some (.notAConfiguration 64 32) := by decide
theorem test_admitted_pair_is_instantiated : outs (instantiate 8 64) = some [0, 0, 0, 0] := by decide

/-! ## Decoding: every op code written out (95_test_vectors section 6) -/

theorem test_decode_lut_words :
    [0b0000#4, 0b0001#4, 0b0010#4, 0b0011#4].map decode =
      [.op .morton2dEncodeLut, .op .morton2dDecodeLut, .op .morton3dEncodeLut, .op .morton3dDecodeLut] := by decide
theorem test_decode_magic_words :
    [0b0100#4, 0b0101#4, 0b0110#4, 0b0111#4].map decode =
      [.op .morton2dEncodeMagic, .op .morton2dDecodeMagic, .op .morton3dEncodeMagic, .op .morton3dDecodeMagic] := by
  decide
theorem test_decode_pbd_words :
    [0b1000#4, 0b1001#4, 0b1010#4, 0b1011#4].map decode =
      [.op .morton2dEncodePbd, .op .morton2dDecodePbd, .op .morton3dEncodePbd, .op .morton3dDecodePbd] := by decide
theorem test_decode_reserved_words :
    [0b1100#4, 0b1101#4, 0b1110#4, 0b1111#4].map decode =
      [.reserved 12#4, .reserved 13#4, .reserved 14#4, .reserved 15#4] := by decide
theorem test_table_word_reaches_the_decoder :
    decodeTableWord 8 0xB = some .morton3dDecodePbd ∧ decodeTableWord 4 0xC = none := by decide

/-! ## Primitives (95_test_vectors section 2) -/

theorem test_shifts :
    shl 0x4E#8 1 = 0x9C#8 ∧ shl 0xFF#8 16 = 0#8 ∧ shl 0x80000001#32 1 = 2#32 ∧ shr 0x4E#8 9 = 0#8 := by decide
theorem test_bytes_and_groups :
    byte 0x12345678#32 3 = 0x12#8 ∧ byte 0x12345678#32 4 = 0#8 ∧ group8 0xFFFF#16 1 1 = 0x7F#8 ∧
      group9 0xDEADBEEF#32 3 1 = 0x00D#9 := by decide
theorem test_deposit :
    deposit 0x03#8 0xAA#8 = 0x0A#8 ∧ deposit 0xFF#8 0x24#8 = 0x24#8 ∧ deposit 0x00FF#16 0xF0F0#16 = 0xF0F0#16 := by
  decide
theorem test_extract :
    extract 0x4E#8 0xAA#8 = 0x03#8 ∧ extract 0x3A#8 0x92#8 = 0x03#8 ∧ extract 0xABCD#16 0xF0F0#16 = 0x00AC#16 := by
  decide

/-! ## Table rows, as 20_memory lists them -/

theorem test_encode_2d_row_A0 :
    (List.range 16).map (fun k => romRead .encode2d (BitVec.ofNat 8 (0xA0 + k))) =
      [0x4400#16, 0x4401#16, 0x4404#16, 0x4405#16, 0x4410#16, 0x4411#16, 0x4414#16, 0x4415#16, 0x4440#16, 0x4441#16,
        0x4444#16, 0x4445#16, 0x4450#16, 0x4451#16, 0x4454#16, 0x4455#16] := by decide
theorem test_decode_2d_row_70 :
    (List.range 16).map (fun k => (romRead .decode2d (BitVec.ofNat 8 (0x70 + k))).toNat) =
      [0xC, 0xD, 0xC, 0xD, 0xE, 0xF, 0xE, 0xF, 0xC, 0xD, 0xC, 0xD, 0xE, 0xF, 0xE, 0xF] := by decide
theorem test_encode_3d_row_A8 :
    (List.range 8).map (fun k => romRead .encode3d (BitVec.ofNat 8 (0xA8 + k))) =
      [0x208200#24, 0x208201#24, 0x208208#24, 0x208209#24, 0x208240#24, 0x208241#24, 0x208248#24, 0x208249#24] := by
  decide
theorem test_decode_3d_row_1C0 :
    (List.range 32).map (fun k => (romRead .decode3d (BitVec.ofNat 9 (0x1C0 + k))).toNat) =
      [4, 5, 4, 5, 4, 5, 4, 5, 6, 7, 6, 7, 6, 7, 6, 7, 4, 5, 4, 5, 4, 5, 4, 5, 6, 7, 6, 7, 6, 7, 6, 7] := by decide

/-! ## Magic sequences (the traces of 41_magic R67, R68, R72, R73) -/

theorem test_split2_traces :
    split2At32 0xDEADBEEF#32 = 0x45545455#32 ∧ split2At64 0x0123456789ABCDEF#64 = 0x4041444550515455#64 := by decide
theorem test_get2_traces :
    get2At32 0xDEADBEEF#32 = 0x0000E36B#32 ∧ get2At64 0x0123456789ABCDEF#64 = 0x0000000011BB11BB#64 := by decide
theorem test_split3_traces :
    split3At32 0xDEADBEEF#32 = 0x08248249#32 ∧ split3At64 0x0123456789ABCDEF#64 = 0x0209240241248249#64 := by decide
theorem test_get3_traces :
    get3At32 0xDEADBEEF#32 = 0x000002FF#32 ∧ get3At64 0x0123456789ABCDEF#64 = 0x0000000000014BA7#64 := by decide

/-! ## Operations: the worked examples (S1 to S3) and a wide vector each (95_test_vectors sections 3 and 4) -/

theorem test_2d_encode_lut_S1 : outs (step (unit c8_8 0 0x0A 0x03 9 9)) = some [0x4E, 0, 0, 0] := by decide
theorem test_2d_encode_lut_16_16 : outs (step (unit c16_16 0 0xCDEF 0x3210 9 9)) = some [0x5655, 0, 0, 0] := by decide
theorem test_2d_decode_lut_S2 : outs (step (unit c8_8 1 9 9 9 0x4E)) = some [0, 0x0A, 0x03, 0] := by decide
theorem test_2d_decode_lut_16_32 :
    outs (step (unit c16_32 1 9 9 9 0x89ABCDEF)) = some [0, 0x11BB, 0xAFAF, 0] := by decide
theorem test_3d_encode_lut_S3 : outs (step (unit c8_8 2 0x0A 0x03 0x0E 9)) = some [0x3A, 0, 0, 0] := by decide
theorem test_3d_encode_lut_boundary :
    outs (step (unit c16_32 2 0x0400 0x0400 0x0400 9)) = some [0xC0000000, 0, 0, 0] := by decide
theorem test_3d_decode_lut_32_32 :
    outs (step (unit c32_32 3 9 9 9 0xDEADBEEF)) = some [0, 0x6FF, 0x77D, 0x18B] := by decide
theorem test_3d_decode_lut_skips_bit_63 :
    outs (step (unit c64_64 3 9 9 9 0x8000000000000000)) = some [0, 0, 0, 0] := by decide
theorem test_2d_encode_magic_S1 : outs (step (unit c8_8 4 0x0A 0x03 9 9)) = some [0x4E, 0, 0, 0] := by decide
theorem test_2d_encode_magic_32_64 :
    outs (step (unit c32_64 4 0x89ABCDEF 0x76543210 9 9)) = some [0x6A6966655A595655, 0, 0, 0] := by decide
theorem test_2d_decode_magic_S2 : outs (step (unit c8_8 5 9 9 9 0x4E)) = some [0, 0x0A, 0x03, 0] := by decide
theorem test_2d_decode_magic_64_64 :
    outs (step (unit c64_64 5 9 9 9 0x0123456789ABCDEF)) = some [0, 0x11BB11BB, 0x0505AFAF, 0] := by decide
theorem test_3d_encode_magic_S3 : outs (step (unit c8_8 6 0x0A 0x03 0x0E 9)) = some [0x3A, 0, 0, 0] := by decide
theorem test_3d_encode_magic_32_32 :
    outs (step (unit c32_32 6 0x89ABCDEF 0x76543210 0xCAFEF00D 9)) = some [0x1124AB4D, 0, 0, 0] := by decide
theorem test_3d_decode_magic_boundary : outs (step (unit c32_32 7 9 9 9 0xC0000000)) = some [0, 0, 0, 0] := by decide
theorem test_3d_decode_magic_64_64 :
    outs (step (unit c64_64 7 9 9 9 0x0123456789ABCDEF)) = some [0, 0x14BA7, 0x1BC6D, 0x614BF] := by decide
theorem test_2d_encode_pbd_S1 : outs (step (unit c8_8 8 0x0A 0x03 9 9)) = some [0x4E, 0, 0, 0] := by decide
theorem test_2d_encode_pbd_16_16 : outs (step (unit c16_16 8 0xCDEF 0x3210 9 9)) = some [0x5655, 0, 0, 0] := by decide
theorem test_2d_decode_pbd_S2 : outs (step (unit c8_8 9 9 9 9 0x4E)) = some [0, 0x0A, 0x03, 0] := by decide
theorem test_2d_decode_pbd_8_32 : outs (step (unit c8_32 9 9 9 9 0xDEADBEEF)) = some [0, 0x6B, 0xFF, 0] := by decide
theorem test_3d_encode_pbd_S3 : outs (step (unit c8_8 10 0x0A 0x03 0x0E 9)) = some [0x3A, 0, 0, 0] := by decide
theorem test_3d_encode_pbd_boundary :
    outs (step (unit c32_32 10 0x7FF 0x400 0x3FF 9)) = some [0xEDB6DB6D, 0, 0, 0] := by decide
theorem test_3d_decode_pbd_8_8 : outs (step (unit c8_8 11 9 9 9 0x3A)) = some [0, 2, 3, 2] := by decide
theorem test_3d_decode_pbd_16_16 : outs (step (unit c16_16 11 9 9 9 0xBEEF)) = some [0, 0x3F, 0x1D, 0xB] := by decide
theorem test_reserved_code_is_refused :
    refusal (step (unit c16_16 12 0xCDEF 0x3210 0xF00D 0xBEEF)) = some (.reservedOp 12#4) := by decide
theorem test_first_instruction_after_reset :
    outs (step (State.reset.withFetchWord 8 0xB)) = some [0, 0, 0, 0] := by decide

/-! ## The outputs follow the inputs (10_state R32, R33): S1 and S2 seen on the ports with no step -/

theorem test_outputs_follow_present :
    (State.reset.present 8#4 ⟨0x0A#8, 0x03#8, 0#8, 0#8⟩).out = ⟨0x4E#8, 0#8, 0#8, 0#8⟩ := by decide
theorem test_outputs_follow_feedIndex :
    (State.reset.present 0#4 ⟨0x0A#8, 0x03#8, 0#8, 0#8⟩).feedIndex.out = ⟨0x4E#8, 0#8, 0#8, 0#8⟩ ∧
      (((State.reset.present 0#4 ⟨0x0A#8, 0x03#8, 0#8, 0#8⟩).feedIndex).withFetchWord 8 9).out =
        ⟨0#8, 0x0A#8, 0x03#8, 0#8⟩ := by decide
theorem test_outputs_follow_feedCoords :
    (State.reset.present 1#4 ⟨9#8, 9#8, 9#8, 0x4E#8⟩).feedCoords.out = ⟨0#8, 0x0A#8, 0x03#8, 0#8⟩ ∧
      (((State.reset.present 1#4 ⟨9#8, 9#8, 9#8, 0x4E#8⟩).feedCoords).withFetchWord 8 4).out =
        ⟨0x4E#8, 0#8, 0#8, 0#8⟩ := by decide
theorem test_outputs_follow_withFetchWord :
    ((State.reset.present 0#4 ⟨0#8, 0#8, 0#8, 0x3A#8⟩).withFetchWord 8 0xB).out = ⟨0#8, 2#8, 3#8, 2#8⟩ := by decide
theorem test_reset_outputs_are_those_of_its_inputs : State.reset.settle = State.reset := by decide
theorem test_presented_reserved_code_is_refused :
    refusal (step (State.reset.present 0xD#4 ⟨1#8, 2#8, 3#8, 4#8⟩)) = some (.reservedOp 0xD#4) := by decide

/-! ## Witnesses: a concrete state and operands that meet the hypotheses of each statement that has any -/

/-- S1 as it stands after its evaluation: the outputs are those of the presented inputs. -/
def settledS1 : State := { unit c8_8 8 0x0A 0x03 0 0 with out := ⟨0x4E#8, 0#8, 0#8, 0#8⟩ }

theorem witness_StepRunsTheDecodedOperation :
    decode (unit c8_8 8 0x0A 0x03 0 0).op = .op .morton2dEncodePbd ∧
      decodeTableWord 8 0x3 = some .morton3dDecodeLut := by decide
theorem witness_StepAnswersByCode :
    12 ≤ (unit c8_8 12 1 2 3 4).op.toNat ∧ 12 ≤ (unit c8_8 15 1 2 3 4).op.toNat ∧
      ¬ 12 ≤ (unit c8_8 11 1 2 3 4).op.toNat ∧ ¬ 12 ≤ (unit c8_8 0 1 2 3 4).op.toNat := by decide
theorem witness_OnlyAdmittedPairsInstantiate :
    wellFormedPair 8 8 = true ∧ wellFormedPair 64 64 = true ∧ wellFormedPair 64 32 = false := by decide
theorem witness_DecodeAndEncodeAgree : decode 11#4 = .op .morton3dDecodePbd := by decide
theorem witness_EveryOperationCompletesAndZeroesTheRest :
    OutPort.r ∉ drives .morton2dDecodeLut ∧ OutPort.cx ∉ drives .morton2dEncodeLut ∧
      OutPort.cy ∉ drives .morton3dEncodePbd ∧ OutPort.cz ∉ drives .morton2dDecodeMagic := by decide
theorem witness_OutputsFollowTheInputsAtEveryMoment :
    decode 0#4 = .op .morton2dEncodeLut ∧ decode 11#4 = .op .morton3dDecodePbd := by decide
theorem witness_ShiftsAreTotal : 8 ≤ 8 ∧ shl 0x4E#8 8 = 0#8 := by decide
theorem witness_ExtractGathersMaskedBits :
    (0xAA#8).getLsbD 7 = true ∧ rank 0xAA#8 7 = 3 ∧ popcount 0xAA#8 ≤ 4 := by decide
theorem witness_IdealInterleave2dBySpreadAndCompact :
    0 < 2 ∧ 1 < 2 ∧ dilv2 8 0x4E#8 1 = 0x03#8 := by decide
theorem witness_Morton3dDecodeLutDeinterleaves :
    (unit c32_32 3 0 0 0 0xC0000000).cfg.M ≤ 32 ∧ (unit c64_64 3 0 0 0 0x8000000000000000).cfg.M = 64 ∧ 2 < 3 := by
  decide
theorem witness_RoundTrip3d_and_IndexRoundTrip :
    c8_8.W = c8_8.M ∧ c16_16.W = c16_16.M ∧ c32_32.W = c32_32.M ∧ c64_64.W = c64_64.M := by decide
theorem witness_StrategiesAgreeIn2d :
    (unit c8_8 1 0 0 0 0x4E).cfg.M / 2 ≤ (unit c8_8 1 0 0 0 0x4E).cfg.W ∧
      (unit c16_32 1 0 0 0 0x4E).cfg.M / 2 ≤ (unit c16_32 1 0 0 0 0x4E).cfg.W := by decide
theorem witness_DivergenceIn3dIsTheCompleteList :
    (unit c16_16 6 0 0 0 0).cfg.M ≤ 16 ∧ (unit c32_32 6 0x400 0x400 0 0).cfg.M = 32 ∧
      (unit c32_64 6 0x200000 0 0 0).cfg.M = 64 := by decide
theorem witness_PromotionOfNarrowWidthsIsExact :
    (unit c8_8 4 1 2 3 4).cfg.M ≤ 16 ∧ (unit c16_16 4 1 2 3 4).cfg.M ≤ 16 := by decide
theorem witness_DispatchPatchTurnsMagicIntoPbd :
    ((unit c32_32 6 0x400 0x400 0 0).cfg.W = 32 ∧ (unit c32_32 6 0x400 0x400 0 0).cfg.M = 32) ∧
      (unit c64_64 6 0x200000 0 0 0).cfg.W = 64 ∧ (unit c64_64 6 0x200000 0 0 0).cfg.M = 64 := by decide
theorem witness_step_answers_a_next_state : step (unit c8_8 8 0x0A 0x03 0 0) = .next settledS1 :=
  congrArg (Host.Outcome.next (φ := Fault) (ρ := Refusal))
    (show (unit c8_8 8 0x0A 0x03 0 0).drive (.index (pbdEncode2 8 0x0A#8 0x03#8)) = settledS1 by decide)
theorem witness_EveryStepKeepsTheOutputsSettled : settledS1.op.toNat < 12 ∧ Settled settledS1 := by
  refine ⟨by decide, fun i h => ?_⟩
  have : i = .morton2dEncodePbd := by
    have e : decode settledS1.op = .op .morton2dEncodePbd := by decide
    simpa [e, eq_comm] using h
  subst this
  decide

end Sys2Proof.Tests
end

/-!
PROOFS of the family 00_scope: the walks and masks, the table, magic and deposit operations against their closed forms,
the step and its settled states, and last the theorems that settle the obligations.
-/

namespace Sys2Proof.Machine

open Sys2Proof

/-- A field of a value: shifted down and cut (00_scope R7, R9). -/
theorem toNat_toWidth_shr {N : Nat} (a : BitVec N) (n s : Nat) :
    (toWidth n (shr a s)).toNat = a.toNat / 2 ^ s % 2 ^ n := by
  rw [BitVec.toNat_setWidth, BitVec.toNat_ushiftRight, Nat.shiftRight_eq_div_pow]

/-! ## The deposit and extract walks bit by bit (00_scope R14, R15) -/

theorem getLsbD_shl_one {N p : Nat} (hp : p < N) (q : Nat) : (shl 1#N p).getLsbD q = (q == p) := by
  rw [BitVec.getLsbD_shiftLeft, BitVec.getLsbD_one, Bool.eq_iff_iff]
  simp
  omega

theorem rank_le_self {N : Nat} (m : BitVec N) (p : Nat) : rank m p ≤ p := by
  simpa [rank] using (List.range p).countP_le_length (p := m.getLsbD)

theorem rank_mono {N : Nat} (m : BitVec N) {p q : Nat} (h : p ≤ q) : rank m p ≤ rank m q :=
  (List.range_sublist.mpr h).countP_le

/-- A set bit is counted: distinct set bits of a mask have distinct ranks. -/
theorem rank_lt_rank {N : Nat} {m : BitVec N} {p q : Nat} (hm : m.getLsbD p = true) (h : p < q) :
    rank m p < rank m q := by
  have hs := rank_succ m p
  have hle := rank_mono m (show p + 1 ≤ q from h)
  simp only [hm, if_true] at hs
  omega

theorem getLsbD_depositWalk_succ {N : Nat} (a m : BitVec N) (p q : Nat) :
    (depositWalk a m (p + 1)).1.getLsbD q =
      ((depositWalk a m p).1.getLsbD q || (m.getLsbD p && a.getLsbD (rank m p) && q == p)) := by
  simp only [depositWalk, depositWalk_snd]
  cases hm : m.getLsbD p with
  | false => simp
  | true =>
    have hp := BitVec.lt_of_getLsbD hm
    cases a.getLsbD (rank m p) with
    | false => simp
    | true =>
      simp only [if_true, BitVec.getLsbD_or, getLsbD_shl_one hp, Bool.true_and]

theorem getLsbD_depositWalk {N : Nat} (a m : BitVec N) (p q : Nat) :
    (depositWalk a m p).1.getLsbD q = (decide (q < p) && (m.getLsbD q && a.getLsbD (rank m q))) := by
  induction p with
  | zero => simp [depositWalk]
  | succ p ih =>
    rw [getLsbD_depositWalk_succ, ih]
    rcases Nat.lt_trichotomy q p with h | rfl | h
    · simp [h, Nat.lt_succ_of_lt h, Nat.ne_of_lt h]
    · simp
    · simp [Nat.ne_of_gt h, Nat.not_lt.mpr (Nat.le_of_lt h), Nat.not_lt.mpr (Nat.succ_le_of_lt h)]

theorem getLsbD_deposit {N : Nat} (a m : BitVec N) (p : Nat) :
    (deposit a m).getLsbD p = (m.getLsbD p && a.getLsbD (rank m p)) := by
  rw [deposit, getLsbD_depositWalk]
  by_cases h : p < N
  · simp [h]
  · simp [h, BitVec.getLsbD_of_ge m p (Nat.le_of_not_lt h)]

theorem getLsbD_extractWalk_succ {N : Nat} (b m : BitVec N) (p k : Nat) :
    (extractWalk b m (p + 1)).1.getLsbD k =
      ((extractWalk b m p).1.getLsbD k || (m.getLsbD p && b.getLsbD p && k == rank m p)) := by
  simp only [extractWalk, extractWalk_snd]
  cases hm : m.getLsbD p with
  | false => simp
  | true =>
    have hk := Nat.lt_of_le_of_lt (rank_le_self m p) (BitVec.lt_of_getLsbD hm)
    cases b.getLsbD p with
    | false => simp
    | true =>
      simp only [if_true, BitVec.getLsbD_or, getLsbD_shl_one hk, Bool.true_and]

/-- The walk of an extract has written nothing at or above the count of set bits it has passed. -/
theorem getLsbD_extractWalk_of_rank_le {N : Nat} (b m : BitVec N) {p k : Nat} (h : rank m p ≤ k) :
    (extractWalk b m p).1.getLsbD k = false := by
  induction p with
  | zero => simp [extractWalk]
  | succ p ih =>
    rw [getLsbD_extractWalk_succ, ih (Nat.le_trans (rank_mono m (Nat.le_succ p)) h)]
    cases hm : m.getLsbD p with
    | false => rfl
    | true =>
      have := rank_lt_rank hm (show p < p + 1 by omega)
      simp [show k ≠ rank m p by omega]

/-- The walk of an extract has written each masked bit it has passed at that bit's rank, and later positions, whose
ranks are larger, do not touch it. -/
theorem getLsbD_extractWalk_rank {N : Nat} (b m : BitVec N) {p q : Nat} (hm : m.getLsbD q = true) (h : q < p) :
    (extractWalk b m p).1.getLsbD (rank m q) = b.getLsbD q := by
  induction p with
  | zero => cases h
  | succ p ih =>
    rw [getLsbD_extractWalk_succ]
    obtain hlt | rfl := Nat.lt_succ_iff_lt_or_eq.mp h
    · rw [ih hlt]
      simp [Nat.ne_of_lt (rank_lt_rank hm hlt)]
    · rw [getLsbD_extractWalk_of_rank_le b m (Nat.le_refl _)]
      simp [hm]

theorem getLsbD_extract_rank {N : Nat} (b m : BitVec N) {p : Nat} (hm : m.getLsbD p = true) :
    (extract b m).getLsbD (rank m p) = b.getLsbD p :=
  getLsbD_extractWalk_rank b m hm (BitVec.lt_of_getLsbD hm)

theorem getLsbD_extract_of_popcount_le {N : Nat} (b m : BitVec N) {k : Nat} (h : popcount m ≤ k) :
    (extract b m).getLsbD k = false :=
  getLsbD_extractWalk_of_rank_le b m h

/-! ## The interleave masks: one mask per residue (00_scope R16) -/

/-- The mask of axis `a` of `n`: the positions that are `a` modulo `n`. -/
def axisMask (n a M : Nat) : BitVec M := ofBits M fun p => p % n == a

theorem evenMask_eq_axisMask (M : Nat) : evenMask M = axisMask 2 0 M := rfl
theorem oddMask_eq_axisMask (M : Nat) : oddMask M = axisMask 2 1 M := rfl
theorem x3Mask_eq_axisMask (M : Nat) : x3Mask M = axisMask 3 0 M := rfl
theorem y3Mask_eq_axisMask (M : Nat) : y3Mask M = axisMask 3 1 M := rfl
theorem z3Mask_eq_axisMask (M : Nat) : z3Mask M = axisMask 3 2 M := rfl

@[simp] theorem getLsbD_axisMask (n a M p : Nat) :
    (axisMask n a M).getLsbD p = (decide (p < M) && p % n == a) :=
  getLsbD_ofBits _ _ _

/-- Below position `p` lie `ceil ((p - a) / n)` positions of residue `a`; the dimension `n` is 2 or 3. -/
theorem rank_axisMask {n a M p : Nat} (hn : n = 2 ∨ n = 3) (ha : a < n) (hp : p ≤ M) :
    rank (axisMask n a M) p = (p + (n - 1 - a)) / n := by
  induction p with
  | zero => rcases hn with rfl | rfl <;> simp only [rank_zero] <;> omega
  | succ p ih =>
    rw [rank_succ, ih (by omega), getLsbD_axisMask]
    by_cases h : p % n = a
    · simp only [h, show p < M by omega, decide_true, beq_self_eq_true, Bool.and_self, if_true]
      rcases hn with rfl | rfl <;> omega
    · simp only [beq_eq_false_iff_ne.mpr h, Bool.and_false, Bool.false_eq_true, if_false]
      rcases hn with rfl | rfl <;> omega

theorem popcount_axisMask {n a M : Nat} (hn : n = 2 ∨ n = 3) (ha : a < n) :
    popcount (axisMask n a M) = (M + (n - 1 - a)) / n :=
  rank_axisMask hn ha (Nat.le_refl M)

/-- An extract under the mask of axis `a` of `n` reads every n-th bit from `a` on. -/
theorem getLsbD_extract_axisMask {n a M : Nat} (v : BitVec M) (hn : n = 2 ∨ n = 3) (ha : a < n) (k : Nat) :
    (extract v (axisMask n a M)).getLsbD k = v.getLsbD (n * k + a) := by
  by_cases h : n * k + a < M
  · have hbit : (axisMask n a M).getLsbD (n * k + a) = true := by
      simp [h, Nat.mod_eq_of_lt ha]
    have hrank : rank (axisMask n a M) (n * k + a) = k := by
      rw [rank_axisMask hn ha (Nat.le_of_lt h)]
      rcases hn with rfl | rfl <;> omega
    rw [← getLsbD_extract_rank v _ hbit, hrank]
  · rw [BitVec.getLsbD_of_ge v _ (Nat.le_of_not_lt h)]
    apply getLsbD_extract_of_popcount_le
    rw [popcount_axisMask hn ha]
    rcases hn with rfl | rfl <;> omega

/-- A deposit under the mask of axis `a` of `n` puts bit `k` of the source at position `n * k + a`. -/
theorem getLsbD_deposit_axisMask {n a M : Nat} (b : BitVec M) (hn : n = 2 ∨ n = 3) (ha : a < n) (p : Nat) :
    (deposit b (axisMask n a M)).getLsbD p = (decide (p < M) && p % n == a && b.getLsbD (p / n)) := by
  rw [getLsbD_deposit, getLsbD_axisMask]
  by_cases h : p < M ∧ p % n = a
  · obtain ⟨hp, hr⟩ := h
    have hrank : rank (axisMask n a M) p = p / n := by
      rw [rank_axisMask hn ha (Nat.le_of_lt hp)]
      rcases hn with rfl | rfl <;> omega
    rw [hrank]
  · have : (decide (p < M) && p % n == a) = false := by simpa using h
    simp [this]

/-! ## The ideal interleaves by the residue of the position (00_scope R17, R19) -/

theorem getLsbD_ilv2 {W : Nat} (M : Nat) (x y : BitVec W) (p : Nat) :
    (ilv2 M x y).getLsbD p =
      (decide (p < M) && if p % 2 = 0 then x.getLsbD (p / 2) else y.getLsbD (p / 2)) := by
  rw [ilv2, getLsbD_ofBits]
  by_cases h : p % 2 = 0
  · simp [h]
  · simp [h, show (p - 1) / 2 = p / 2 by omega]

theorem getLsbD_ilv3 {W : Nat} (M : Nat) (x y z : BitVec W) (L : Option Nat) (p : Nat) :
    (ilv3 M x y z L).getLsbD p =
      (decide (p < M) && (below (p / 3) L &&
        if p % 3 = 0 then x.getLsbD (p / 3) else if p % 3 = 1 then y.getLsbD (p / 3) else z.getLsbD (p / 3))) :=
  getLsbD_ofBits _ _ _

theorem coordWidth_cases (c : Config) : c.W = 8 ∨ c.W = 16 ∨ c.W = 32 ∨ c.W = 64 := width_cases c.coord

theorem indexWidth_cases (c : Config) : c.M = 8 ∨ c.M = 16 ∨ c.M = 32 ∨ c.M = 64 := width_cases c.index

/-! ## The table operations are the ideal interleaves (40_lut R60, R62, R65) -/

/-- The `2^s`-fold 2D entry of byte `j` holds the byte's bits at the positions that are `s` modulo 2. -/
theorem getLsbD_scaled_encode2d {W s : Nat} (M j : Nat) (a : BitVec W) (hs : s < 2) (p : Nat) :
    (scaled M s (romRead .encode2d (byte a j))).getLsbD p =
      (decide (p < M) && (decide (p < 16) && (p % 2 == s && a.getLsbD (8 * j + p / 2)))) := by
  rw [getLsbD_scaled, romRead_encode2d, getLsbD_spread2, getLsbD_byte]
  by_cases h : p % 2 = s ∧ p < 16
  · obtain ⟨hp, hlt⟩ := h
    simp [hp, hlt, show ¬ p < s by omega, show (p - s) % 2 = 0 by omega, show (p - s) / 2 = p / 2 by omega,
      show p / 2 < 8 by omega]
  · grind

/-- The `2^s`-fold 3D entry of byte `j` holds the byte's bits at the positions that are `s` modulo 3. -/
theorem getLsbD_scaled_encode3d {W s : Nat} (M j : Nat) (a : BitVec W) (hs : s < 3) (p : Nat) :
    (scaled M s (romRead .encode3d (byte a j))).getLsbD p =
      (decide (p < M) && (decide (p < 24) && (p % 3 == s && a.getLsbD (8 * j + p / 3)))) := by
  rw [getLsbD_scaled, romRead_encode3d, getLsbD_spread3, getLsbD_byte]
  by_cases h : p % 3 = s ∧ p < 24
  · obtain ⟨hp, hlt⟩ := h
    simp [hp, hlt, show ¬ p < s by omega, show (p - s) % 3 = 0 by omega, show (p - s) / 3 = p / 3 by omega,
      show p / 3 < 8 by omega]
  · grind

/-- The loop over the low `j` bytes leaves their interleave below bit `16 * j` and moves the accumulator above it. -/
theorem getLsbD_lutEncode2Loop {W : Nat} (M : Nat) (x y : BitVec W) (j : Nat) (acc : BitVec M) (p : Nat) :
    (lutEncode2Loop M x y j acc).getLsbD p =
      (decide (p < M) && if p < 16 * j then (ilv2 M x y).getLsbD p else acc.getLsbD (p - 16 * j)) := by
  induction j generalizing acc with
  | zero =>
    by_cases h : p < M
    · simp [lutEncode2Loop, h]
    · simp [lutEncode2Loop, h, BitVec.getLsbD_of_ge acc p (Nat.le_of_not_lt h)]
  | succ j ih =>
    rw [lutEncode2Loop_succ, ih]
    by_cases hM : p < M
    case neg => simp [hM]
    by_cases hlow : p < 16 * j
    · simp only [hlow, if_true, show p < 16 * (j + 1) by omega]
    obtain ⟨q, rfl⟩ := Nat.exists_eq_add_of_le (Nat.le_of_not_lt hlow)
    have hq : q < M := by omega
    simp only [BitVec.getLsbD_or, BitVec.getLsbD_shiftLeft, getLsbD_scaled_encode2d M j y (show 1 < 2 by omega),
      getLsbD_scaled_encode2d M j x (show 0 < 2 by omega), getLsbD_ilv2, hlow, hM, hq,
      Nat.add_sub_cancel_left, show (16 * j + q) % 2 = q % 2 by omega, show (16 * j + q) / 2 = 8 * j + q / 2 by omega]
    by_cases hbyte : q < 16
    · obtain h | h := Nat.mod_two_eq_zero_or_one q <;> simp [h, hbyte, show 16 * j + q < 16 * (j + 1) by omega]
    · simp [hbyte, show ¬ 16 * j + q < 16 * (j + 1) by omega, show 16 * j + q - 16 * (j + 1) = q - 16 by omega]

/-- The loop over the low `j` bytes leaves their interleave below bit `24 * j` and moves the accumulator above it. -/
theorem getLsbD_lutEncode3Loop {W : Nat} (M : Nat) (x y z : BitVec W) (j : Nat) (acc : BitVec M) (p : Nat) :
    (lutEncode3Loop M x y z j acc).getLsbD p =
      (decide (p < M) && if p < 24 * j then (ilv3 M x y z none).getLsbD p else acc.getLsbD (p - 24 * j)) := by
  induction j generalizing acc with
  | zero =>
    by_cases h : p < M
    · simp [lutEncode3Loop, h]
    · simp [lutEncode3Loop, h, BitVec.getLsbD_of_ge acc p (Nat.le_of_not_lt h)]
  | succ j ih =>
    rw [lutEncode3Loop_succ, ih]
    by_cases hM : p < M
    case neg => simp [hM]
    by_cases hlow : p < 24 * j
    · simp only [hlow, if_true, show p < 24 * (j + 1) by omega]
    obtain ⟨q, rfl⟩ := Nat.exists_eq_add_of_le (Nat.le_of_not_lt hlow)
    have hq : q < M := by omega
    simp only [BitVec.getLsbD_or, BitVec.getLsbD_shiftLeft, getLsbD_scaled_encode3d M j z (show 2 < 3 by omega),
      getLsbD_scaled_encode3d M j y (show 1 < 3 by omega), getLsbD_scaled_encode3d M j x (show 0 < 3 by omega),
      getLsbD_ilv3, below, hlow, hM, hq,
      Nat.add_sub_cancel_left, show (24 * j + q) % 3 = q % 3 by omega, show (24 * j + q) / 3 = 8 * j + q / 3 by omega]
    by_cases hbyte : q < 24
    · obtain h | h | h : q % 3 = 0 ∨ q % 3 = 1 ∨ q % 3 = 2 := by omega
      all_goals simp [h, hbyte, show 24 * j + q < 24 * (j + 1) by omega]
    · simp [hbyte, show ¬ 24 * j + q < 24 * (j + 1) by omega, show 24 * j + q - 24 * (j + 1) = q - 24 by omega]

/-- The loop over the first `i` groups leaves the low `4 * i` bits of the coordinate. -/
theorem getLsbD_lutDecode2Loop {M : Nat} (v : BitVec M) (a i k : Nat) :
    (lutDecode2Loop v a i).getLsbD k = (decide (k < M) && (decide (k < 4 * i) && v.getLsbD (2 * k + a))) := by
  induction i with
  | zero => simp [lutDecode2Loop]
  | succ i ih =>
    rw [lutDecode2Loop_succ, BitVec.getLsbD_or, ih, BitVec.getLsbD_shiftLeft, BitVec.getLsbD_setWidth,
      romRead_decode2d, getLsbD_compact2, getLsbD_group8]
    by_cases hM : k < M
    case neg => simp [hM]
    by_cases hlow : k < 4 * i
    · simp [hM, hlow, show k < 4 * (i + 1) by omega]
    obtain ⟨q, rfl⟩ := Nat.exists_eq_add_of_le (Nat.le_of_not_lt hlow)
    simp [hM, show q < M by omega, show 4 * i + q < 4 * (i + 1) ↔ q < 4 by omega,
      show 2 * q < 8 ↔ q < 4 by omega, show 8 * i + a + 2 * q = 2 * (4 * i + q) + a by omega]

/-- The loop over the first `i` groups leaves the low `3 * i` bits of the coordinate. -/
theorem getLsbD_lutDecode3Loop {M : Nat} (v : BitVec M) (a i k : Nat) :
    (lutDecode3Loop v a i).getLsbD k = (decide (k < M) && (decide (k < 3 * i) && v.getLsbD (3 * k + a))) := by
  induction i with
  | zero => simp [lutDecode3Loop]
  | succ i ih =>
    rw [lutDecode3Loop_succ, BitVec.getLsbD_or, ih, BitVec.getLsbD_shiftLeft, BitVec.getLsbD_setWidth,
      romRead_decode3d, getLsbD_compact3, getLsbD_group9]
    by_cases hM : k < M
    case neg => simp [hM]
    by_cases hlow : k < 3 * i
    · simp [hM, hlow, show k < 3 * (i + 1) by omega]
    obtain ⟨q, rfl⟩ := Nat.exists_eq_add_of_le (Nat.le_of_not_lt hlow)
    simp [hM, show q < M by omega, show 3 * i + q < 3 * (i + 1) ↔ q < 3 by omega,
      show 3 * q < 9 ↔ q < 3 by omega, show 9 * i + a + 3 * q = 3 * (3 * i + q) + a by omega]

theorem lutEncode2_eq_ilv2 (c : Config) (x y : BitVec c.W) : lutEncode2 c.M x y = ilv2 c.M x y := by
  apply BitVec.eq_of_getLsbD_eq
  intro p hp
  rw [lutEncode2, getLsbD_lutEncode2Loop]
  by_cases h : p < 16 * (c.W / 8)
  · simp [hp, h]
  · have hW : c.W ≤ p / 2 := by have := coordWidth_cases c; omega
    rw [getLsbD_ilv2]
    simp [h, BitVec.getLsbD_of_ge _ _ hW]

theorem lutEncode3_eq_ilv3 (c : Config) (x y z : BitVec c.W) : lutEncode3 c.M x y z = ilv3 c.M x y z none := by
  apply BitVec.eq_of_getLsbD_eq
  intro p hp
  rw [lutEncode3, getLsbD_lutEncode3Loop]
  by_cases h : p < 24 * (c.W / 8)
  · simp [hp, h]
  · have hW : c.W ≤ p / 3 := by have := coordWidth_cases c; omega
    rw [getLsbD_ilv3]
    simp [h, BitVec.getLsbD_of_ge _ _ hW]

theorem lutDecode2_eq_dilv2 (c : Config) (v : BitVec c.M) (a : Nat) : lutDecode2 c.W v a = dilv2 c.W v a := by
  apply BitVec.eq_of_getLsbD_eq
  intro k hk
  rw [lutDecode2, BitVec.getLsbD_setWidth, getLsbD_lutDecode2Loop, getLsbD_dilv2]
  by_cases h : k < 4 * (c.M / 8)
  · simp [h, show k < c.M from Nat.lt_of_lt_of_le hk c.admitted]
  · have hM : c.M ≤ 2 * k + a := by have := indexWidth_cases c; omega
    simp [BitVec.getLsbD_of_ge _ _ hM]

theorem lutDecode3_eq_dilv3 (c : Config) (v : BitVec c.M) (a : Nat) :
    lutDecode3 c.W v a = dilv3 c.W v a (some (3 * groupCount c.M)) := by
  apply BitVec.eq_of_getLsbD_eq
  intro k hk
  rw [lutDecode3, BitVec.getLsbD_setWidth, getLsbD_lutDecode3Loop, getLsbD_dilv3]
  simp [below, show k < c.M from Nat.lt_of_lt_of_le hk c.admitted]

/-! ## The net functions of the magic sequences (41_magic R69, R74)

Between two steps of a sequence the carried bits stand in blocks: block `A` holds the `s` bits numbered `A * s` to
`A * s + s - 1`, and starts at position `n * (A * s)`, where `n` is the dimension. A step of a split halves the blocks,
a step of a get joins them in pairs, and the mask of a step is the block layout it ends in. -/

/-- The number of the carried bit at position `p`, where the blocks have `s` bits each. -/
def blockIndex (n s p : Nat) : Nat := p / (n * s) * s + p % (n * s)

/-- The `I`-bit word in which the bits `f 0` to `f (K - 1)` stand in blocks of `s` bits, one block every `n * s`
positions. -/
def blocks (n s I K : Nat) (f : Nat → Bool) : BitVec I :=
  ofBits I fun p => decide (p % (n * s) < s) && (decide (blockIndex n s p < K) && f (blockIndex n s p))

/-- The mask of the block layout: every carried bit set. -/
def blockMask (n s I K : Nat) : BitVec I := blocks n s I K fun _ => true

theorem getLsbD_blocks (n s I K : Nat) (f : Nat → Bool) (p : Nat) :
    (blocks n s I K f).getLsbD p =
      (decide (p < I) && (decide (p % (n * s) < s) && (decide (blockIndex n s p < K) && f (blockIndex n s p)))) :=
  getLsbD_ofBits _ _ _

/-- Position `n * (A * s) + r` is bit `r` of block `A`, the carried bit `A * s + r`. -/
theorem getLsbD_blocks_inside {n s I K p i : Nat} (f : Nat → Bool) (A r : Nat) (hn : 0 < n) (hr : r < s)
    (hp : p = n * (A * s) + r) (hi : i = A * s + r) :
    (blocks n s I K f).getLsbD p = (decide (p < I) && (decide (i < K) && f i)) := by
  have hlt : r < n * s := Nat.lt_of_lt_of_le hr (Nat.le_mul_of_pos_left s hn)
  have hpos : p = n * s * A + r := by rw [hp]; ring
  have hmod : p % (n * s) = r := by rw [hpos, Nat.mul_add_mod, Nat.mod_eq_of_lt hlt]
  have hdiv : p / (n * s) = A := by
    rw [hpos, Nat.mul_add_div (by omega), Nat.div_eq_of_lt hlt, Nat.add_zero]
  simp only [getLsbD_blocks, blockIndex, hmod, hdiv, hr, hi, decide_true, Bool.true_and]

/-- Between two blocks every bit is 0. -/
theorem getLsbD_blocks_outside {n s I K p : Nat} (f : Nat → Bool) (A r : Nat) (hs : s ≤ r) (hr : r < n * s)
    (hp : p = n * (A * s) + r) : (blocks n s I K f).getLsbD p = false := by
  have hmod : p % (n * s) = r := by
    rw [show p = n * s * A + r by rw [hp]; ring, Nat.mul_add_mod, Nat.mod_eq_of_lt hr]
  simp [getLsbD_blocks, hmod, Nat.not_lt.mpr hs]

/-- Every position lies in the span of a block, inside the block or after it. -/
theorem exists_block_position (n p : Nat) {s : Nat} (hn : 0 < n) (hs : 0 < s) :
    ∃ A r, r < n * s ∧ p = n * (A * s) + r :=
  ⟨p / (n * s), p % (n * s), Nat.mod_lt _ (Nat.mul_pos hn hs), (Nat.div_add_mod p (n * s)).symm.trans (by ring)⟩

/-- A step of a split halves the blocks: the upper half of each moves up by `(n - 1) * s`. -/
theorem spreadStep_blocks {n s I K : Nat} (f : Nat → Bool) (hn : n = 2 ∨ n = 3) (hs : 0 < s) :
    spreadStep ((n - 1) * s) (blockMask n s I K) (blocks n (2 * s) I K f) = blocks n s I K f := by
  apply BitVec.eq_of_getLsbD_eq
  intro p hpI
  have hn0 : 0 < n := by omega
  obtain ⟨B, r, hr, hp⟩ := exists_block_position n p hn0 (show 0 < 2 * s by omega)
  have hB : B * (2 * s) = 2 * (B * s) := by ring
  have hB2 : 2 * B * s = 2 * (B * s) := by ring
  have hB1 : (2 * B + 1) * s = 2 * (B * s) + s := by ring
  rw [getLsbD_spreadStep, blockMask]
  by_cases hlow : r < s
  · have hshift : (decide (p < I) && !decide (p < (n - 1) * s) &&
        (blocks n (2 * s) I K f).getLsbD (p - (n - 1) * s)) = false := by
      cases B with
      | zero => simp [show p < (n - 1) * s by rcases hn with rfl | rfl <;> omega]
      | succ B =>
        have hB' : (B + 1) * (2 * s) = B * (2 * s) + 2 * s := by ring
        rw [getLsbD_blocks_outside f B ((n + 1) * s + r), Bool.and_false]
        all_goals rcases hn with rfl | rfl <;> omega
    have hin := getLsbD_blocks_inside (I := I) (K := K) (i := 2 * (B * s) + r) f B r hn0 (show r < 2 * s by omega) hp
      (by omega)
    rw [hshift, hin, getLsbD_blocks_inside (i := 2 * (B * s) + r) _ (2 * B) r hn0 hlow,
      getLsbD_blocks_inside (i := 2 * (B * s) + r) f (2 * B) r hn0 hlow]
    · grind
    all_goals rcases hn with rfl | rfl <;> omega
  by_cases hhigh : n * s ≤ r ∧ r < n * s + s
  · obtain ⟨hge, hlt⟩ := hhigh
    rw [getLsbD_blocks_outside f B r,
      getLsbD_blocks_inside (p := p - (n - 1) * s) (i := 2 * (B * s) + s + (r - n * s)) f B (s + (r - n * s)) hn0,
      getLsbD_blocks_inside (p := p) (i := 2 * (B * s) + s + (r - n * s)) _ (2 * B + 1) (r - n * s) hn0,
      getLsbD_blocks_inside (p := p) (i := 2 * (B * s) + s + (r - n * s)) f (2 * B + 1) (r - n * s) hn0]
    · simp [hpI, show p - (n - 1) * s < I by omega, show ¬ p < (n - 1) * s by rcases hn with rfl | rfl <;> omega]
      tauto
    all_goals rcases hn with rfl | rfl <;> omega
  · have hout : ∀ g : Nat → Bool, (blocks n s I K g).getLsbD p = false := by
      intro g
      by_cases h : r < n * s
      · exact getLsbD_blocks_outside g (2 * B) r (by omega) h (by rw [hp, hB, hB2])
      · apply getLsbD_blocks_outside g (2 * B + 1) (r - n * s)
        all_goals rcases hn with rfl | rfl <;> omega
    rw [hout, hout, Bool.and_false]

/-- A step of a get joins the blocks in pairs: the second of each pair moves down by `(n - 1) * s`. -/
theorem gatherStep_blocks {n s I K : Nat} (f : Nat → Bool) (hn : n = 2 ∨ n = 3) (hs : 0 < s) (hI : n * K < I + n) :
    gatherStep ((n - 1) * s) (blockMask n (2 * s) I K) (blocks n s I K f) = blocks n (2 * s) I K f := by
  apply BitVec.eq_of_getLsbD_eq
  intro p hpI
  have hn0 : 0 < n := by omega
  obtain ⟨B, r, hr, hp⟩ := exists_block_position n p hn0 (show 0 < 2 * s by omega)
  have hB : B * (2 * s) = 2 * (B * s) := by ring
  have hB2 : 2 * B * s = 2 * (B * s) := by ring
  have hB1 : (2 * B + 1) * s = 2 * (B * s) + s := by ring
  rw [getLsbD_gatherStep, blockMask]
  by_cases hout : 2 * s ≤ r
  · rw [getLsbD_blocks_outside _ B r hout hr hp, getLsbD_blocks_outside _ B r hout hr hp, Bool.and_false]
  have hlt : r < 2 * s := by omega
  rw [getLsbD_blocks_inside (i := 2 * (B * s) + r) _ B r hn0 hlt hp (by omega),
    getLsbD_blocks_inside (i := 2 * (B * s) + r) f B r hn0 hlt hp (by omega)]
  by_cases hlow : r < s
  · rw [getLsbD_blocks_inside (i := 2 * (B * s) + r) f (2 * B) r hn0 hlow,
      getLsbD_blocks_outside f (2 * B) (r + (n - 1) * s)]
    · grind
    all_goals rcases hn with rfl | rfl <;> omega
  · rw [getLsbD_blocks_outside f (2 * B) r,
      getLsbD_blocks_inside (i := 2 * (B * s) + r) f (2 * B + 1) (r - s) hn0]
    · by_cases hK : 2 * (B * s) + r < K
      · simp [hpI, hK, show (n - 1) * s + p < I by rcases hn with rfl | rfl <;> omega]
      · simp [hK]
    all_goals rcases hn with rfl | rfl <;> omega

/-- A step of a split with the literals of the spec, once these are known to be those of the block layout. -/
theorem spreadStep_eq_blocks {I : Nat} {t : BitVec I} {f : Nat → Bool} (shift : Nat) (mask : BitVec I) (n s K : Nat)
    (ht : t = blocks n (2 * s) I K f) (hn : n = 2 ∨ n = 3 := by decide) (hs : 0 < s := by decide)
    (hshift : shift = (n - 1) * s := by decide) (hmask : mask = blockMask n s I K := by decide +kernel) :
    spreadStep shift mask t = blocks n s I K f := by
  rw [hshift, hmask, ht, spreadStep_blocks f hn hs]

/-- A step of a get with the literals of the spec, once these are known to be those of the block layout. -/
theorem gatherStep_eq_blocks {I : Nat} {t : BitVec I} {f : Nat → Bool} (shift : Nat) (mask : BitVec I) (n s K : Nat)
    (ht : t = blocks n s I K f) (hn : n = 2 ∨ n = 3 := by decide) (hs : 0 < s := by decide)
    (hI : n * K < I + n := by decide) (hshift : shift = (n - 1) * s := by decide)
    (hmask : mask = blockMask n (2 * s) I K := by decide +kernel) :
    gatherStep shift mask t = blocks n (2 * s) I K f := by
  rw [hshift, hmask, ht, gatherStep_blocks f hn hs hI]

/-- A word cut by a block mask is in block layout; `f` names its bits by their numbers. -/
theorem and_blockMask {n s I K : Nat} (a : BitVec I) (f : Nat → Bool)
    (hf : ∀ p, p % (n * s) < s → blockIndex n s p < K → a.getLsbD p = f (blockIndex n s p)) :
    a &&& blockMask n s I K = blocks n s I K f := by
  apply BitVec.eq_of_getLsbD_eq
  intro p _
  rw [BitVec.getLsbD_and, blockMask, getLsbD_blocks, getLsbD_blocks]
  by_cases h : p % (n * s) < s ∧ blockIndex n s p < K
  · obtain ⟨hs, hK⟩ := h
    simp [hs, hK, hf p hs hK, Bool.and_comm]
  · grind

/-- The bits of the first block stand at the positions they are numbered by. -/
theorem blockIndex_eq_self {n s p : Nat} (h : blockIndex n s p < s) : blockIndex n s p = p := by
  have hblock : p / (n * s) = 0 := by
    by_contra hne
    have := Nat.le_mul_of_pos_left s (Nat.pos_of_ne_zero hne)
    simp only [blockIndex] at h
    omega
  have hp := Nat.div_add_mod p (n * s)
  simp only [blockIndex, hblock] at hp ⊢
  omega

/-- Cutting a word to its low `K` bits is the block layout of one block. -/
theorem and_blockMask_low {n s I K : Nat} (a : BitVec I) (hK : K ≤ s) :
    a &&& blockMask n s I K = blocks n s I K a.getLsbD :=
  and_blockMask a _ fun _ _ h => by rw [blockIndex_eq_self (Nat.lt_of_lt_of_le h hK)]

/-- Cutting a word to every `n`-th position is the block layout of single bits. -/
theorem and_blockMask_unit {n I K : Nat} (b : BitVec I) :
    b &&& blockMask n 1 I K = blocks n 1 I K fun k => b.getLsbD (n * k) :=
  and_blockMask b _ fun p hp _ => by
    have hmod : p % n = 0 := by simpa using hp
    simp [blockIndex, hmod, Nat.mul_div_cancel' (Nat.dvd_of_mod_eq_zero hmod)]

/-- The first step of a 2D split only cuts: what it moves up falls outside its mask. -/
theorem spreadStep_lowHalf {h : Nat} (a : BitVec (2 * h)) :
    spreadStep h (blockMask 2 h (2 * h) h) a = blocks 2 h (2 * h) h a.getLsbD := by
  rw [← and_blockMask_low a (Nat.le_refl h)]
  apply BitVec.eq_of_getLsbD_eq
  intro p hp
  rw [getLsbD_spreadStep, BitVec.getLsbD_and]
  by_cases hlow : p < h
  · simp [hlow]
  · rw [blockMask, getLsbD_blocks_outside _ 0 p (by omega) hp (by omega), Bool.and_false, Bool.and_false]

theorem getLsbD_blocks_unit (n I K : Nat) (f : Nat → Bool) (p : Nat) :
    (blocks n 1 I K f).getLsbD p = (decide (p < I) && (p % n == 0 && (decide (p / n < K) && f (p / n)))) := by
  rw [getLsbD_blocks]
  by_cases h : p % n = 0
  · simp [blockIndex, h]
  · simp [h]

theorem getLsbD_blocks_low {n s I K : Nat} (f : Nat → Bool) (hn : 0 < n) (hK : K ≤ s) (k : Nat) :
    (blocks n s I K f).getLsbD k = (decide (k < I) && (decide (k < K) && f k)) := by
  by_cases hlow : k < s
  · exact getLsbD_blocks_inside f 0 k hn hlow (by omega) (by omega)
  · have hidx : ¬ blockIndex n s k < K := fun h => by
      have := blockIndex_eq_self (Nat.lt_of_lt_of_le h hK)
      omega
    simp [getLsbD_blocks, hidx, show ¬ k < K by omega]

theorem split2At32_eq_blocks (a : BitVec 32) : split2At32 a = blocks 2 1 32 16 a.getLsbD := by
  have h16 : spreadStep 16 0x0000FFFF#32 a = blocks 2 16 32 16 a.getLsbD := by
    rw [show 0x0000FFFF#32 = blockMask 2 16 32 16 by decide, spreadStep_lowHalf (h := 16) a]
  have h8 := spreadStep_eq_blocks 8 0x00FF00FF#32 2 8 16 h16
  have h4 := spreadStep_eq_blocks 4 0x0F0F0F0F#32 2 4 16 h8
  have h2 := spreadStep_eq_blocks 2 0x33333333#32 2 2 16 h4
  exact spreadStep_eq_blocks 1 0x55555555#32 2 1 16 h2

theorem split2At64_eq_blocks (a : BitVec 64) : split2At64 a = blocks 2 1 64 32 a.getLsbD := by
  have h32 : spreadStep 32 0x00000000FFFFFFFF#64 a = blocks 2 32 64 32 a.getLsbD := by
    rw [show 0x00000000FFFFFFFF#64 = blockMask 2 32 64 32 by decide +kernel, spreadStep_lowHalf (h := 32) a]
  have h16 := spreadStep_eq_blocks 16 0x0000FFFF0000FFFF#64 2 16 32 h32
  have h8 := spreadStep_eq_blocks 8 0x00FF00FF00FF00FF#64 2 8 32 h16
  have h4 := spreadStep_eq_blocks 4 0x0F0F0F0F0F0F0F0F#64 2 4 32 h8
  have h2 := spreadStep_eq_blocks 2 0x3333333333333333#64 2 2 32 h4
  exact spreadStep_eq_blocks 1 0x5555555555555555#64 2 1 32 h2

theorem get2At32_eq_blocks (b : BitVec 32) : get2At32 b = blocks 2 16 32 16 fun k => b.getLsbD (2 * k) := by
  have h1 : b &&& 0x55555555#32 = blocks 2 1 32 16 fun k => b.getLsbD (2 * k) := by
    rw [show 0x55555555#32 = blockMask 2 1 32 16 by decide, and_blockMask_unit]
  have h2 := gatherStep_eq_blocks 1 0x33333333#32 2 1 16 h1
  have h4 := gatherStep_eq_blocks 2 0x0F0F0F0F#32 2 2 16 h2
  have h8 := gatherStep_eq_blocks 4 0x00FF00FF#32 2 4 16 h4
  exact gatherStep_eq_blocks 8 0x0000FFFF#32 2 8 16 h8

theorem get2At64_eq_blocks (b : BitVec 64) : get2At64 b = blocks 2 32 64 32 fun k => b.getLsbD (2 * k) := by
  have h1 : b &&& 0x5555555555555555#64 = blocks 2 1 64 32 fun k => b.getLsbD (2 * k) := by
    rw [show 0x5555555555555555#64 = blockMask 2 1 64 32 by decide +kernel, and_blockMask_unit]
  have h2 := gatherStep_eq_blocks 1 0x3333333333333333#64 2 1 32 h1
  have h4 := gatherStep_eq_blocks 2 0x0F0F0F0F0F0F0F0F#64 2 2 32 h2
  have h8 := gatherStep_eq_blocks 4 0x00FF00FF00FF00FF#64 2 4 32 h4
  have h16 := gatherStep_eq_blocks 8 0x0000FFFF0000FFFF#64 2 8 32 h8
  exact gatherStep_eq_blocks 16 0x00000000FFFFFFFF#64 2 16 32 h16

theorem split3At32_eq_blocks (a : BitVec 32) : split3At32 a = blocks 3 1 32 10 a.getLsbD := by
  have h16 : a &&& 0x000003FF#32 = blocks 3 16 32 10 a.getLsbD := by
    rw [show 0x000003FF#32 = blockMask 3 16 32 10 by decide, and_blockMask_low a (by decide)]
  have h8 := spreadStep_eq_blocks 16 0x030000FF#32 3 8 10 h16
  have h4 := spreadStep_eq_blocks 8 0x0300F00F#32 3 4 10 h8
  have h2 := spreadStep_eq_blocks 4 0x030C30C3#32 3 2 10 h4
  exact spreadStep_eq_blocks 2 0x09249249#32 3 1 10 h2

theorem split3At64_eq_blocks (a : BitVec 64) : split3At64 a = blocks 3 1 64 21 a.getLsbD := by
  have h32 : a &&& 0x00000000001FFFFF#64 = blocks 3 32 64 21 a.getLsbD := by
    rw [show 0x00000000001FFFFF#64 = blockMask 3 32 64 21 by decide +kernel, and_blockMask_low a (by decide)]
  have h16 := spreadStep_eq_blocks 32 0x001F00000000FFFF#64 3 16 21 h32
  have h8 := spreadStep_eq_blocks 16 0x001F0000FF0000FF#64 3 8 21 h16
  have h4 := spreadStep_eq_blocks 8 0x100F00F00F00F00F#64 3 4 21 h8
  have h2 := spreadStep_eq_blocks 4 0x10C30C30C30C30C3#64 3 2 21 h4
  exact spreadStep_eq_blocks 2 0x1249249249249249#64 3 1 21 h2

theorem get3At32_eq_blocks (b : BitVec 32) : get3At32 b = blocks 3 16 32 10 fun k => b.getLsbD (3 * k) := by
  have h1 : b &&& 0x09249249#32 = blocks 3 1 32 10 fun k => b.getLsbD (3 * k) := by
    rw [show 0x09249249#32 = blockMask 3 1 32 10 by decide, and_blockMask_unit]
  have h2 := gatherStep_eq_blocks 2 0x030C30C3#32 3 1 10 h1
  have h4 := gatherStep_eq_blocks 4 0x0300F00F#32 3 2 10 h2
  have h8 := gatherStep_eq_blocks 8 0x030000FF#32 3 4 10 h4
  exact gatherStep_eq_blocks 16 0x000003FF#32 3 8 10 h8

theorem get3At64_eq_blocks (b : BitVec 64) : get3At64 b = blocks 3 32 64 21 fun k => b.getLsbD (3 * k) := by
  have h1 : b &&& 0x1249249249249249#64 = blocks 3 1 64 21 fun k => b.getLsbD (3 * k) := by
    rw [show 0x1249249249249249#64 = blockMask 3 1 64 21 by decide +kernel, and_blockMask_unit]
  have h2 := gatherStep_eq_blocks 2 0x10C30C30C30C30C3#64 3 1 21 h1
  have h4 := gatherStep_eq_blocks 4 0x100F00F00F00F00F#64 3 2 21 h2
  have h8 := gatherStep_eq_blocks 8 0x001F0000FF0000FF#64 3 4 21 h4
  have h16 := gatherStep_eq_blocks 16 0x001F00000000FFFF#64 3 8 21 h8
  exact gatherStep_eq_blocks 32 0x00000000001FFFFF#64 3 16 21 h16

/-- R69: a 2D split moves bit `k` to position `2 * k`. -/
theorem getLsbD_split2 (I : Internal) (a : BitVec I.bits) (p : Nat) :
    (split2 I a).getLsbD p = (decide (p < I.bits) && (p % 2 == 0 && a.getLsbD (p / 2))) := by
  cases I with
  | i32 =>
    rw [split2, split2At32_eq_blocks, getLsbD_blocks_unit]
    by_cases hp : p < 32
    · simp [hp, show p / 2 < 16 by omega]
    · simp [hp]
  | i64 =>
    rw [split2, split2At64_eq_blocks, getLsbD_blocks_unit]
    by_cases hp : p < 64
    · simp [hp, show p / 2 < 32 by omega]
    · simp [hp]

/-- R69: a 2D get reads bit `k` at position `2 * k`. -/
theorem getLsbD_get2 (I : Internal) (b : BitVec I.bits) (k : Nat) : (get2 I b).getLsbD k = b.getLsbD (2 * k) := by
  cases I with
  | i32 =>
    rw [get2, get2At32_eq_blocks, getLsbD_blocks_low _ (by decide) (by decide)]
    by_cases hk : k < 16
    · simp [hk, show k < 32 by omega]
    · simp [hk, BitVec.getLsbD_of_ge b (2 * k) (show 32 ≤ 2 * k by omega)]
  | i64 =>
    rw [get2, get2At64_eq_blocks, getLsbD_blocks_low _ (by decide) (by decide)]
    by_cases hk : k < 32
    · simp [hk, show k < 64 by omega]
    · simp [hk, BitVec.getLsbD_of_ge b (2 * k) (show 64 ≤ 2 * k by omega)]

/-- R74: a 3D split moves each carried bit `k` to position `3 * k`. -/
theorem getLsbD_split3 (I : Internal) (a : BitVec I.bits) (p : Nat) :
    (split3 I a).getLsbD p =
      (decide (p < I.bits) && (p % 3 == 0 && (decide (p / 3 < carriedBits I) && a.getLsbD (p / 3)))) := by
  cases I with
  | i32 => rw [split3, split3At32_eq_blocks, getLsbD_blocks_unit]; rfl
  | i64 => rw [split3, split3At64_eq_blocks, getLsbD_blocks_unit]; rfl

/-- R74: a 3D get reads each carried bit `k` at position `3 * k`. -/
theorem getLsbD_get3 (I : Internal) (b : BitVec I.bits) (k : Nat) :
    (get3 I b).getLsbD k = (decide (k < carriedBits I) && b.getLsbD (3 * k)) := by
  cases I with
  | i32 =>
    rw [get3, get3At32_eq_blocks, getLsbD_blocks_low _ (by decide) (by decide)]
    simp only [carriedBits]
    grind
  | i64 =>
    rw [get3, get3At64_eq_blocks, getLsbD_blocks_low _ (by decide) (by decide)]
    simp only [carriedBits]
    grind

/-! ## The magic and the deposit operations are the ideal interleaves (41_magic R70, R71, R76, R77; 42_pbd R81 to R84) -/

theorem le_internalFor_bits (c : Config) : c.M ≤ (internalFor c.M).bits := by
  have hM := indexWidth_cases c
  by_cases h : c.M ≤ 32
  · simp only [internalFor, h, if_true]
  · simp only [internalFor, h, if_false]
    exact show c.M ≤ 64 by omega

theorem magicEncode2_eq_ilv2 (c : Config) (x y : BitVec c.W) : magicEncode2 c.M x y = ilv2 c.M x y := by
  apply BitVec.eq_of_getLsbD_eq
  intro p hp
  have hI := le_internalFor_bits c
  have hpI : p < (internalFor c.M).bits := by omega
  rw [magicEncode2, getLsbD_ilv2]
  simp only [BitVec.getLsbD_setWidth, BitVec.getLsbD_or, BitVec.getLsbD_shiftLeft, getLsbD_split2]
  obtain h | h := Nat.mod_two_eq_zero_or_one p
  · have : p < 1 ∨ ¬ (p - 1) % 2 = 0 := by omega
    grind
  · simp [h, hp, hpI, show ¬ p = 0 by omega, show (p - 1) % 2 = 0 by omega, show (p - 1) / 2 = p / 2 by omega,
      show p / 2 < (internalFor c.M).bits by omega, show p - 1 < (internalFor c.M).bits by omega]

theorem magicEncode3_eq_ilv3 (c : Config) (x y z : BitVec c.W) :
    magicEncode3 c.M x y z = ilv3 c.M x y z (some (carriedBits (internalFor c.M))) := by
  apply BitVec.eq_of_getLsbD_eq
  intro p hp
  have hI := le_internalFor_bits c
  have hpI : p < (internalFor c.M).bits := by omega
  rw [magicEncode3, getLsbD_ilv3]
  simp only [BitVec.getLsbD_setWidth, BitVec.getLsbD_or, BitVec.getLsbD_shiftLeft, getLsbD_split3, below]
  obtain h | h | h : p % 3 = 0 ∨ p % 3 = 1 ∨ p % 3 = 2 := by omega
  · have : p < 1 ∨ ¬ (p - 1) % 3 = 0 := by omega
    have : p < 2 ∨ ¬ (p - 2) % 3 = 0 := by omega
    grind
  · have : p < 2 ∨ ¬ (p - 2) % 3 = 0 := by omega
    have : (p - 1) / 3 = p / 3 := by omega
    grind
  · have : (p - 2) / 3 = p / 3 := by omega
    grind

theorem magicDecode2_eq_dilv2 (c : Config) (v : BitVec c.M) (a : Nat) : magicDecode2 c.W v a = dilv2 c.W v a := by
  apply BitVec.eq_of_getLsbD_eq
  intro k _
  rw [magicDecode2, getLsbD_dilv2]
  simp only [BitVec.getLsbD_setWidth, getLsbD_get2, BitVec.getLsbD_ushiftRight, Nat.add_comm a]
  by_cases h : 2 * k + a < c.M
  · simp [Nat.lt_of_lt_of_le h (le_internalFor_bits c)]
  · simp [BitVec.getLsbD_of_ge v _ (Nat.le_of_not_lt h)]

theorem magicDecode3_eq_dilv3 (c : Config) (v : BitVec c.M) (a : Nat) :
    magicDecode3 c.W v a = dilv3 c.W v a (some (carriedBits (internalFor c.M))) := by
  apply BitVec.eq_of_getLsbD_eq
  intro k _
  rw [magicDecode3, getLsbD_dilv3]
  simp only [BitVec.getLsbD_setWidth, getLsbD_get3, BitVec.getLsbD_ushiftRight, Nat.add_comm a, below]
  by_cases h : 3 * k + a < c.M
  · simp [Nat.lt_of_lt_of_le h (le_internalFor_bits c)]
  · simp [BitVec.getLsbD_of_ge v _ (Nat.le_of_not_lt h)]

theorem pbdEncode2_eq_ilv2 (c : Config) (x y : BitVec c.W) : pbdEncode2 c.M x y = ilv2 c.M x y := by
  apply BitVec.eq_of_getLsbD_eq
  intro p hp
  rw [pbdEncode2, evenMask_eq_axisMask, oddMask_eq_axisMask, BitVec.getLsbD_or, getLsbD_ilv2,
    getLsbD_deposit_axisMask _ (.inl rfl) (by decide), getLsbD_deposit_axisMask _ (.inl rfl) (by decide),
    BitVec.getLsbD_setWidth, BitVec.getLsbD_setWidth]
  have hlt : p / 2 < c.M := by omega
  obtain h | h := Nat.mod_two_eq_zero_or_one p <;> simp [h, hp, hlt]

theorem pbdEncode3_eq_ilv3 (c : Config) (x y z : BitVec c.W) : pbdEncode3 c.M x y z = ilv3 c.M x y z none := by
  apply BitVec.eq_of_getLsbD_eq
  intro p hp
  rw [pbdEncode3, x3Mask_eq_axisMask, y3Mask_eq_axisMask, z3Mask_eq_axisMask, BitVec.getLsbD_or, BitVec.getLsbD_or,
    getLsbD_ilv3]
  simp only [getLsbD_deposit_axisMask _ (Or.inr rfl : 3 = 2 ∨ 3 = 3), show 0 < 3 by decide, show 1 < 3 by decide,
    show 2 < 3 by decide, BitVec.getLsbD_setWidth, below]
  have hlt : p / 3 < c.M := by omega
  obtain h | h | h : p % 3 = 0 ∨ p % 3 = 1 ∨ p % 3 = 2 := by omega
  all_goals simp [h, hp, hlt]

theorem pbdDecode_axisMask_two (c : Config) (v : BitVec c.M) {a : Nat} (ha : a < 2) :
    pbdDecode c.W v (axisMask 2 a c.M) = dilv2 c.W v a := by
  apply BitVec.eq_of_getLsbD_eq
  intro k _
  rw [pbdDecode, BitVec.getLsbD_setWidth, getLsbD_extract_axisMask v (.inl rfl) ha, getLsbD_dilv2]

theorem pbdDecode_axisMask_three (c : Config) (v : BitVec c.M) {a : Nat} (ha : a < 3) :
    pbdDecode c.W v (axisMask 3 a c.M) = dilv3 c.W v a none := by
  apply BitVec.eq_of_getLsbD_eq
  intro k _
  rw [pbdDecode, BitVec.getLsbD_setWidth, getLsbD_extract_axisMask v (.inr rfl) ha, getLsbD_dilv3, below,
    Bool.true_and]

/-! ## Every operation drives its closed form -/

theorem outputsOf_eq_closedForm {c : Config} (i : Instr) (a : Inputs c) : outputsOf i a = closedForm c i a := by
  cases i with
  | morton2dEncodeLut => exact congrArg Outputs.index (lutEncode2_eq_ilv2 c a.x a.y)
  | morton2dDecodeLut =>
    exact congrArg₂ Outputs.pair (lutDecode2_eq_dilv2 c a.v 0) (lutDecode2_eq_dilv2 c a.v 1)
  | morton3dEncodeLut => exact congrArg Outputs.index (lutEncode3_eq_ilv3 c a.x a.y a.z)
  | morton3dDecodeLut =>
    simp only [outputsOf, outMorton3dDecodeLut, lutDecode3_eq_dilv3]
    rfl
  | morton2dEncodeMagic => exact congrArg Outputs.index (magicEncode2_eq_ilv2 c a.x a.y)
  | morton2dDecodeMagic =>
    exact congrArg₂ Outputs.pair (magicDecode2_eq_dilv2 c a.v 0) (magicDecode2_eq_dilv2 c a.v 1)
  | morton3dEncodeMagic => exact congrArg Outputs.index (magicEncode3_eq_ilv3 c a.x a.y a.z)
  | morton3dDecodeMagic =>
    simp only [outputsOf, outMorton3dDecodeMagic, magicDecode3_eq_dilv3]
    rfl
  | morton2dEncodePbd => exact congrArg Outputs.index (pbdEncode2_eq_ilv2 c a.x a.y)
  | morton2dDecodePbd =>
    exact congrArg₂ Outputs.pair (pbdDecode_axisMask_two c a.v (by decide)) (pbdDecode_axisMask_two c a.v (by decide))
  | morton3dEncodePbd => exact congrArg Outputs.index (pbdEncode3_eq_ilv3 c a.x a.y a.z)
  | morton3dDecodePbd =>
    simp only [outputsOf, outMorton3dDecodePbd, x3Mask_eq_axisMask, y3Mask_eq_axisMask, z3Mask_eq_axisMask,
      pbdDecode_axisMask_three c a.v, show 0 < 3 by decide, show 1 < 3 by decide, show 2 < 3 by decide]
    rfl

/-! ## The spread forms of the ideal interleaves (00_scope R10 to R13, R17 to R19) -/

theorem compact2_spread2 {n : Nat} (a : BitVec n) : compact2 (spread2 a) = a := by
  apply BitVec.eq_of_getLsbD_eq
  intro k _
  simp [getLsbD_compact2, getLsbD_spread2]

theorem compact3_spread3 {n : Nat} (a : BitVec n) : compact3 (spread3 a) = a := by
  apply BitVec.eq_of_getLsbD_eq
  intro k _
  simp [getLsbD_compact3, getLsbD_spread3]

/-- A spread shifted to axis `s` of 2, in the working width that loses no bit. -/
theorem getLsbD_shl_spread2 {W s : Nat} (a : BitVec W) (hs : s < 2) (p : Nat) :
    (shl (toWidth (2 * W + 1) (spread2 a)) s).getLsbD p = (p % 2 == s && a.getLsbD (p / 2)) := by
  rw [BitVec.getLsbD_shiftLeft, BitVec.getLsbD_setWidth, getLsbD_spread2]
  by_cases hW : W ≤ p / 2
  · rw [BitVec.getLsbD_of_ge a (p / 2) hW, Bool.and_false]
    by_cases h : s ≤ p ∧ (p - s) % 2 = 0
    · rw [BitVec.getLsbD_of_ge a ((p - s) / 2) (by omega)]
      simp
    · grind
  · by_cases h : p % 2 = s
    · simp [h, show p < 2 * W + 1 by omega, show p - s < 2 * W + 1 by omega, show ¬ p < s by omega,
        show (p - s) % 2 = 0 by omega, show (p - s) / 2 = p / 2 by omega]
    · have : p < s ∨ ¬ (p - s) % 2 = 0 := by omega
      grind

/-- A spread shifted to axis `s` of 3, in the working width that loses no bit. -/
theorem getLsbD_shl_spread3 {W s : Nat} (a : BitVec W) (hs : s < 3) (p : Nat) :
    (shl (toWidth (3 * W + 2) (spread3 a)) s).getLsbD p = (p % 3 == s && a.getLsbD (p / 3)) := by
  rw [BitVec.getLsbD_shiftLeft, BitVec.getLsbD_setWidth, getLsbD_spread3]
  by_cases hW : W ≤ p / 3
  · rw [BitVec.getLsbD_of_ge a (p / 3) hW, Bool.and_false]
    by_cases h : s ≤ p ∧ (p - s) % 3 = 0
    · rw [BitVec.getLsbD_of_ge a ((p - s) / 3) (by omega)]
      simp
    · grind
  · by_cases h : p % 3 = s
    · simp [h, show p < 3 * W + 2 by omega, show p - s < 3 * W + 2 by omega, show ¬ p < s by omega,
        show (p - s) % 3 = 0 by omega, show (p - s) / 3 = p / 3 by omega]
    · have : p < s ∨ ¬ (p - s) % 3 = 0 := by omega
      grind

theorem ilv2_eq_spread2 {W : Nat} (M : Nat) (x y : BitVec W) :
    ilv2 M x y = toWidth M (toWidth (2 * W + 1) (spread2 x) ||| shl (toWidth (2 * W + 1) (spread2 y)) 1) := by
  apply BitVec.eq_of_getLsbD_eq
  intro p hp
  have hx := getLsbD_shl_spread2 x (show 0 < 2 by decide) p
  simp only [shl, BitVec.shiftLeft_zero] at hx
  rw [getLsbD_ilv2, BitVec.getLsbD_setWidth, BitVec.getLsbD_or, hx, getLsbD_shl_spread2 y (by decide)]
  obtain h | h := Nat.mod_two_eq_zero_or_one p <;> simp [h]

theorem ilv3_eq_spread3 {W : Nat} (M : Nat) (x y z : BitVec W) :
    ilv3 M x y z none = toWidth M (toWidth (3 * W + 2) (spread3 x) ||| shl (toWidth (3 * W + 2) (spread3 y)) 1 |||
      shl (toWidth (3 * W + 2) (spread3 z)) 2) := by
  apply BitVec.eq_of_getLsbD_eq
  intro p hp
  have hx := getLsbD_shl_spread3 x (show 0 < 3 by decide) p
  simp only [shl, BitVec.shiftLeft_zero] at hx
  rw [getLsbD_ilv3, below, BitVec.getLsbD_setWidth, BitVec.getLsbD_or, BitVec.getLsbD_or, hx,
    getLsbD_shl_spread3 y (by decide), getLsbD_shl_spread3 z (by decide)]
  obtain h | h | h : p % 3 = 0 ∨ p % 3 = 1 ∨ p % 3 = 2 := by omega
  all_goals simp [h]

theorem getLsbD_ofNat_mod_two_pow {W : Nat} (a : BitVec W) (L k : Nat) :
    (BitVec.ofNat W (a.toNat % 2 ^ L)).getLsbD k = (decide (k < L) && a.getLsbD k) := by
  rw [BitVec.getLsbD_ofNat, Nat.testBit_mod_two_pow, BitVec.testBit_toNat]
  by_cases h : k < W
  · simp [h]
  · simp [h, BitVec.getLsbD_of_ge a k (Nat.le_of_not_lt h)]

/-- A bit limit on the interleave is the same limit on each coordinate. -/
theorem ilv3_limit {W : Nat} (M : Nat) (x y z : BitVec W) (L : Nat) :
    ilv3 M x y z (some L) =
      ilv3 M (BitVec.ofNat W (x.toNat % 2 ^ L)) (BitVec.ofNat W (y.toNat % 2 ^ L)) (BitVec.ofNat W (z.toNat % 2 ^ L))
        none := by
  apply BitVec.eq_of_getLsbD_eq
  intro p _
  simp only [getLsbD_ilv3, getLsbD_ofNat_mod_two_pow, below, Bool.true_and]
  by_cases h : p / 3 < L <;> simp [h]

theorem dilv2_eq_compact2 (c : Config) (v : BitVec c.M) {a : Nat} (ha : a < 2) :
    dilv2 c.W v a = toWidth c.W (compact2 (n := c.M / 2) (toWidth _ (shr v a))) := by
  apply BitVec.eq_of_getLsbD_eq
  intro k _
  rw [getLsbD_dilv2, BitVec.getLsbD_setWidth, getLsbD_compact2, BitVec.getLsbD_setWidth, BitVec.getLsbD_ushiftRight,
    Nat.add_comm a]
  by_cases h : 2 * k < 2 * (c.M / 2)
  · simp [h]
  · have hM : c.M ≤ 2 * k + a := by have := indexWidth_cases c; omega
    simp [BitVec.getLsbD_of_ge v _ hM]

/-! ## The configurations (00_scope R3) -/

theorem width_ofBits?_eq_some_iff {n : Nat} {k : Width} : Width.ofBits? n = some k ↔ k.bits = n := by
  constructor
  · intro h
    simp only [Width.ofBits?] at h
    split_ifs at h <;> cases h <;> simp_all
  · rintro rfl
    cases k <;> rfl

/-- A configuration is found for exactly its own pair of widths. -/
theorem ofWidths?_eq_some_iff {w m : Nat} {c : Config} : Config.ofWidths? w m = some c ↔ c.W = w ∧ c.M = m := by
  constructor
  · intro h
    simp only [Config.ofWidths?] at h
    split at h
    · next coord index hw hm =>
      split_ifs at h
      cases h
      exact ⟨width_ofBits?_eq_some_iff.mp hw, width_ofBits?_eq_some_iff.mp hm⟩
    · cases h
  · rintro ⟨hw, hm⟩
    obtain ⟨coord, index, hle⟩ := c
    simp only [Config.ofWidths?, width_ofBits?_eq_some_iff.mpr hw, width_ofBits?_eq_some_iff.mpr hm, hle, dite_true]

/-- The ten pairs (W, M) of 00_scope R3. -/
def admittedPairs : List (Nat × Nat) :=
  [(8, 8), (8, 16), (8, 32), (8, 64), (16, 16), (16, 32), (16, 64), (32, 32), (32, 64), (64, 64)]

theorem mem_admittedPairs_iff {w m : Nat} : (w, m) ∈ admittedPairs ↔ ∃ c : Config, c.W = w ∧ c.M = m := by
  constructor
  · intro h
    have : ∀ q ∈ admittedPairs, (Config.ofWidths? q.1 q.2).isSome = true := by decide
    obtain ⟨c, hc⟩ := Option.isSome_iff_exists.mp (this _ h)
    exact ⟨c, ofWidths?_eq_some_iff.mp hc⟩
  · rintro ⟨⟨coord, index, hle⟩, rfl, rfl⟩
    revert hle
    cases coord <;> cases index <;> decide

theorem instantiate_of_config (c : Config) : instantiate c.W c.M = .next (State.resetFor c) := by
  simp only [instantiate, ofWidths?_eq_some_iff.mpr ⟨rfl, rfl⟩]

theorem instantiate_of_no_config {w m : Nat} (h : ¬ ∃ c : Config, c.W = w ∧ c.M = m) :
    instantiate w m = .refused (.notAConfiguration w m) := by
  cases hc : Config.ofWidths? w m with
  | none => simp only [instantiate, hc]
  | some c => exact absurd ⟨c, ofWidths?_eq_some_iff.mp hc⟩ h

/-! ## The step and the settled states (00_scope R22; 10_state R32) -/

theorem strategy_ofField_eq_none_iff (b : BitVec 2) : Strategy.ofField b = none ↔ b = 3#2 := by
  revert b
  decide

theorem decode_eq_op_iff (w : OpCode) : (∃ i, decode w = .op i) ↔ w.toNat < 12 := by
  have hfield : w.extractLsb' 2 2 = 3#2 ↔ ¬ w.toNat < 12 := by revert w; decide
  rw [← not_iff_not, ← hfield, ← strategy_ofField_eq_none_iff]
  cases h : Strategy.ofField (w.extractLsb' 2 2) <;> simp [decode, h]

theorem step_of_decode {s : State} {i : Instr} (h : decode s.op = .op i) : step s = exec i s := by
  simp only [step, h]

/-- A step with a defined code answers what the combinational unit shows for the presented inputs. -/
theorem step_eq_next_settle {s : State} (h : s.op.toNat < 12) : step s = .next s.settle := by
  obtain ⟨i, hi⟩ := (decode_eq_op_iff s.op).mpr h
  rw [step_of_decode hi, exec_eq_answer, answer, State.settle, drivenOutputs_of_decode hi]

/-- Only a defined code is answered by a next state. -/
theorem op_lt_of_step_next {s t : State} (h : step s = .next t) : s.op.toNat < 12 := by
  obtain ⟨i, hi, -⟩ | ⟨code, -, hr⟩ := step_cases s
  · exact (decode_eq_op_iff s.op).mp ⟨i, hi⟩
  · rw [hr] at h
    cases h

/-- A step does not read the output ports (00_scope R2). -/
theorem step_drive (s : State) (o : Outputs s.cfg) : step (s.drive o) = step s := by
  obtain ⟨i, hi, he⟩ | ⟨code, hc, he⟩ := step_cases s
  · rw [he, step_of_decode (s := s.drive o) hi, exec_eq_answer, exec_eq_answer]
    rfl
  · rw [he]
    simp only [step, drive_op, hc]

theorem settled_of_out {s : State} (h : s.out = drivenOutputs s.op s.inp) : Settled s := by
  intro i hi
  rw [h, drivenOutputs_of_decode hi, outputsOf_eq_closedForm]

theorem settled_settle (s : State) : Settled s.settle := settled_of_out rfl

theorem present_eq (s : State) (w : OpCode) (a : Inputs s.cfg) :
    s.present w a = ⟨s.cfg, w, a, drivenOutputs w a⟩ := rfl

theorem settled_present (s : State) (w : OpCode) (a : Inputs s.cfg) : Settled (s.present w a) := settled_of_out rfl

/-- A settled state with a defined code shows what the unit drives already. -/
theorem settle_eq_self {s : State} (h : s.op.toNat < 12) (hs : Settled s) : s.settle = s := by
  obtain ⟨i, hi⟩ := (decode_eq_op_iff s.op).mpr h
  rw [State.settle, drivenOutputs_of_decode hi, outputsOf_eq_closedForm, ← hs i hi]
  rfl

theorem step_eq_self_iff (s : State) : step s = .next s ↔ s.op.toNat < 12 ∧ Settled s := by
  constructor
  · intro h
    exact ⟨op_lt_of_step_next h, step_next h ▸ settled_settle s⟩
  · rintro ⟨hop, hs⟩
    rw [step_eq_next_settle hop, settle_eq_self hop hs]

/-! ## The obligations -/

/-- Settles O54: a next state is `s.settle`, and what a settled state shows is the closed form because every operation
drives its closed form. -/
theorem everyStepKeepsTheOutputsSettled : Obligations.EveryStepKeepsTheOutputsSettled := by
  constructor
  · intro s t h
    rw [step_next h]
    exact ⟨settled_settle s, _, rfl⟩
  · intro s hop _
    exact ⟨s.settle, step_eq_next_settle hop, settled_settle s⟩

/-- Settles O14, by the invariant `getLsbD_depositWalk` of the walk. -/
theorem depositPlacesSourceBitsUnderTheMask : Obligations.DepositPlacesSourceBitsUnderTheMask :=
  fun _ a m p => getLsbD_deposit a m p

/-- Settles O15, by the two invariants of the walk: what it has written and where it has not yet written. -/
theorem extractGathersMaskedBits : Obligations.ExtractGathersMaskedBits :=
  fun _ b m => ⟨fun _ hm => getLsbD_extract_rank b m hm, fun _ hk => getLsbD_extract_of_popcount_le b m hk⟩

/-- Settles O21, bit by bit: no bit is lost in the working width. -/
theorem idealInterleave2dBySpreadAndCompact : Obligations.IdealInterleave2dBySpreadAndCompact :=
  ⟨fun _ M x y => ilv2_eq_spread2 M x y, fun c v _ ha => dilv2_eq_compact2 c v ha⟩

/-- Settles O22: the limit moves to the coordinates, and the rest is the form with no limit. -/
theorem idealInterleave3dBySpread : Obligations.IdealInterleave3dBySpread :=
  fun _ M x y z => ⟨ilv3_eq_spread3 M x y z, fun L => (ilv3_limit M x y z L).trans (ilv3_eq_spread3 M _ _ _)⟩

/-- Settles O51: each action of the environment is a `present`, which leaves a settled state. -/
theorem outputsFollowTheInputsAtEveryMoment : Obligations.OutputsFollowTheInputsAtEveryMoment := by
  refine ⟨fun s w a => ⟨settled_present s w a, ⟨_, present_eq s w a⟩, fun i hi => ?_⟩,
    fun s nbits w => ⟨settled_present s _ _, _, present_eq s _ _⟩,
    fun s => ⟨settled_present s _ _, _, present_eq s _ _⟩,
    fun s => ⟨settled_present s _ _, _, present_eq s _ _⟩⟩
  exact (step_eq_self_iff _).mpr ⟨(decode_eq_op_iff w).mp ⟨i, hi⟩, settled_present s w a⟩

/-- Settles O53: a step answers `s.settle`, which is `s` exactly when `s` is settled. -/
theorem settledStatesAreTheFixpoints : Obligations.SettledStatesAreTheFixpoints := by
  refine ⟨step_eq_self_iff, fun s t h => ?_⟩
  have hop := op_lt_of_step_next h
  rw [step_next h]
  exact (step_eq_self_iff _).mpr ⟨hop, settled_settle s⟩

/-- Settles O3: the ten pairs are those of a configuration, and `instantiate` finds it. -/
theorem onlyAdmittedPairsInstantiate : Obligations.OnlyAdmittedPairsInstantiate := by
  intro w m
  split_ifs with h
  · obtain ⟨c, rfl, rfl⟩ := mem_admittedPairs_iff.mp h
    exact ⟨c, rfl, rfl, instantiate_of_config c⟩
  · exact instantiate_of_no_config (mt mem_admittedPairs_iff.mpr h)

/-- Settles O4; the fetch word reaches `op`, so the second half is the first at the state with that word. -/
theorem stepRunsTheDecodedOperation : Obligations.StepRunsTheDecodedOperation := by
  refine ⟨fun _ _ h => step_of_decode h, fun s nbits w i h => step_of_decode ?_⟩
  rw [withFetchWord_op]
  simp only [decodeTableWord] at h
  split at h
  · next hd => rw [hd, Option.some.inj h]
  · cases h

/-- Settles O9: `eval` presents the inputs to the reset state, which differs from `s` in the output ports only. -/
theorem nothingPersistsBetweenEvaluations : Obligations.NothingPersistsBetweenEvaluations :=
  ⟨step_drive, fun s => (step_drive s (drivenOutputs s.op s.inp)).symm⟩

/-- Settles O12, by the arithmetic meaning of the shifts of a bit vector. -/
theorem shiftsAreTotal : Obligations.ShiftsAreTotal := by
  intro N a s
  refine ⟨?_, ?_, fun h => ⟨BitVec.shiftLeft_eq_zero h, BitVec.ushiftRight_eq_zero h⟩⟩
  · rw [BitVec.toNat_shiftLeft, Nat.shiftLeft_eq]
  · rw [BitVec.toNat_ushiftRight, Nat.shiftRight_eq_div_pow]

/-- Settles O13: a field is a shift and a truncation. -/
theorem bytesAndGroupsAreFields : Obligations.BytesAndGroupsAreFields :=
  fun _ a _ _ => ⟨toNat_toWidth_shr a 8 _, toNat_toWidth_shr a 8 _, toNat_toWidth_shr a 9 _⟩

/-- Settles O17: the values by evaluation, the counts by `popcount_axisMask`. -/
theorem interleaveMasksAreTheTable : Obligations.InterleaveMasksAreTheTable := by
  refine ⟨by decide +kernel, by decide +kernel, by decide +kernel, by decide +kernel, fun c => ?_⟩
  have hM := indexWidth_cases c
  rw [evenMask_eq_axisMask, oddMask_eq_axisMask, x3Mask_eq_axisMask, y3Mask_eq_axisMask, z3Mask_eq_axisMask,
    popcount_axisMask (.inl rfl) (by decide), popcount_axisMask (.inl rfl) (by decide),
    popcount_axisMask (.inr rfl) (by decide), popcount_axisMask (.inr rfl) (by decide),
    popcount_axisMask (.inr rfl) (by decide)]
  simp only [axisCapacity]
  omega

/-- Settles O20: bit `k` of the value goes to the position it is read back from. -/
theorem compactUndoesSpread : Obligations.CompactUndoesSpread :=
  fun _ a => ⟨compact2_spread2 a, compact3_spread3 a⟩

/-- Settles O52: `present` replaces every port. -/
theorem earlierPortValuesHaveNoEffect : Obligations.EarlierPortValuesHaveNoEffect :=
  fun c op op' w inp inp' a out out' =>
    (present_eq ⟨c, op, inp, out⟩ w a).trans (present_eq ⟨c, op', inp', out'⟩ w a).symm

end Sys2Proof.Machine

/-!
PROOFS of the family 10_state: what an operation reads and drives (30_encoding R50), read off its closed form, whose
cases are the direction and the dimension; and the theorems that settle the obligations.
-/

namespace Sys2Proof.Machine

open Sys2Proof

/-- Every operation completes, in every state, with the outputs of the presented inputs in closed form. -/
theorem drives_closedForm (i : Instr) (s : State) : Drives i s (closedForm s.cfg i s.inp) := by
  rw [← outputsOf_eq_closedForm]
  exact exec_eq_answer i s

/-! ## The ports an operation reads (10_state R26) -/

section ReadPorts
variable {c : Config} {i : Instr} (a b : Inputs c)

theorem readFrom_x (h : .x ∈ reads i) : (readFrom i a b).x = a.x := if_pos h
theorem readFrom_y (h : .y ∈ reads i) : (readFrom i a b).y = a.y := if_pos h
theorem readFrom_z (h : .z ∈ reads i) : (readFrom i a b).z = a.z := if_pos h
theorem readFrom_v (h : .v ∈ reads i) : (readFrom i a b).v = a.v := if_pos h

/-- The closed form uses the ports of the column "reads" and no other. -/
theorem closedForm_readFrom : closedForm c i (readFrom i a b) = closedForm c i a := by
  cases hdir : i.dir with
  | encode =>
    have hx : .x ∈ reads i := by cases hdim : i.dim <;> simp [reads, hdir, hdim]
    have hy : .y ∈ reads i := by cases hdim : i.dim <;> simp [reads, hdir, hdim]
    cases hdim : i.dim with
    | d2 => simp only [closedForm, hdir, hdim, readFrom_x a b hx, readFrom_y a b hy]
    | d3 =>
      have hz : .z ∈ reads i := by simp [reads, hdir, hdim]
      simp only [closedForm, hdir, hdim, readFrom_x a b hx, readFrom_y a b hy, readFrom_z a b hz]
  | decode =>
    have hv : .v ∈ reads i := by simp [reads, hdir]
    cases hdim : i.dim <;> simp only [closedForm, hdir, hdim, readFrom_v a b hv]

end ReadPorts

/-! ## The ports an operation drives with no result (10_state R27) -/

/-- The closed form is an index, a pair or a triple, and each is 0 on the ports outside its column "drives". -/
theorem closedForm_of_notMem_drives {c : Config} (i : Instr) (a : Inputs c) :
    (.r ∉ drives i → (closedForm c i a).r = 0#_) ∧ (.cx ∉ drives i → (closedForm c i a).cx = 0#_) ∧
      (.cy ∉ drives i → (closedForm c i a).cy = 0#_) ∧ (.cz ∉ drives i → (closedForm c i a).cz = 0#_) := by
  cases hdir : i.dir with
  | encode => cases hdim : i.dim <;> simp [closedForm, drives, hdir, hdim]
  | decode => cases hdim : i.dim <;> simp [closedForm, drives, hdir, hdim]

/-! ## The obligations -/

/-- Settles O10: both evaluations drive their closed form, which does not use the replaced ports. -/
theorem unreadInputsHaveNoEffect : Obligations.UnreadInputsHaveNoEffect := by
  intro i s b
  refine ⟨closedForm s.cfg i s.inp, drives_closedForm i s, ?_⟩
  rw [← closedForm_readFrom s.inp b]
  exact drives_closedForm i { s with inp := readFrom i s.inp b }

/-- Settles O11: the outputs driven are the closed form, which is 0 where the operation has no result. -/
theorem everyOperationCompletesAndZeroesTheRest : Obligations.EveryOperationCompletesAndZeroesTheRest :=
  fun i s => ⟨_, drives_closedForm i s, closedForm_of_notMem_drives i s.inp⟩

end Sys2Proof.Machine

/-!
PROOFS of the family 20_memory: the four tables bit by bit, from the bits of the spreads and compactions they hold
(R35 to R38).
-/

namespace Sys2Proof.Machine

open Sys2Proof

/-- A compaction needs no bound on its bit number: from entry bit `n` up, the index has no bit to keep. -/
theorem decide_lt_and_getLsbD_mul {s n N : Nat} (b : BitVec N) (hN : N ≤ s * n) (k : Nat) :
    (decide (k < n) && b.getLsbD (s * k)) = b.getLsbD (s * k) := by
  by_cases h : k < n
  · rw [decide_eq_true h, Bool.true_and]
  · have hge : N ≤ s * k := hN.trans (Nat.mul_le_mul_left s (Nat.le_of_not_lt h))
    rw [BitVec.getLsbD_of_ge b (s * k) hge, Bool.and_false]

/-- Settles O18: an encode table holds the spread of its index, a decode table the compaction. -/
theorem tablesHoldTheirContents : Obligations.TablesHoldTheirContents := by
  refine ⟨fun b p => ?encode2d, fun b k => ?decode2d, fun b p => ?encode3d, fun g k => ?decode3d⟩
  case encode2d => rw [romRead_encode2d, getLsbD_spread2]
  case decode2d => rw [romRead_decode2d, getLsbD_compact2, decide_lt_and_getLsbD_mul b (n := 4) (by decide)]
  case encode3d => rw [romRead_encode3d, getLsbD_spread3]
  case decode3d => rw [romRead_decode3d, getLsbD_compact3, decide_lt_and_getLsbD_mul g (n := 3) (by decide)]

end Sys2Proof.Machine

/-!
PROOFS of the family 30_encoding: the three fields read back from a word and a word rebuilt from its three fields, the
decoder and the encoder as inverses of each other, and last the theorems that settle the obligations.
-/

namespace Sys2Proof.Machine

open Sys2Proof

/-! ## The fields of a word (30_encoding R49) -/

/-- A word is its three fields, `strat`, `dim` and `dir`, from the most to the least significant bit. -/
theorem append_fields_eq_self (w : OpCode) :
    w.extractLsb' 2 2 ++ BitVec.ofBool (w.getLsbD 1) ++ BitVec.ofBool (w.getLsbD 0) = w := by
  revert w
  decide

section FieldsOfAppend
variable (b : BitVec 2) (d e : BitVec 1)

theorem strat_append_fields : (b ++ d ++ e : OpCode).extractLsb' 2 2 = b := by
  revert b d e
  decide

theorem dim_append_fields : (b ++ d ++ e : OpCode).getLsbD 1 = d.getLsbD 0 := by
  revert b d e
  decide

theorem dir_append_fields : (b ++ d ++ e : OpCode).getLsbD 0 = e.getLsbD 0 := by
  revert b d e
  decide

end FieldsOfAppend

/-! ## Each field's reader and writer are inverse (30_encoding R49) -/

theorem strategy_ofField_eq_some_iff {b : BitVec 2} {C : Strategy} : Strategy.ofField b = some C ↔ C.field = b := by
  revert b
  cases C <;> decide

theorem dim_ofField_field (dim : Dim) : Dim.ofField (dim.field.getLsbD 0) = dim := by cases dim <;> rfl

theorem dim_field_ofField (b : Bool) : (Dim.ofField b).field = BitVec.ofBool b := by cases b <;> rfl

theorem dir_ofField_field (dir : Dir) : Dir.ofField (dir.field.getLsbD 0) = dir := by cases dir <;> rfl

theorem dir_field_ofField (b : Bool) : (Dir.ofField b).field = BitVec.ofBool b := by cases b <;> rfl

/-! ## The operation with given fields (30_encoding R57) -/

/-- The per-instruction family, for every operation at once. -/
theorem fieldsRebuild : ∀ i : Instr, Laws.FieldsRebuild.Statement i
  | .morton2dEncodeLut => Laws.FieldsRebuild.morton2dEncodeLut
  | .morton2dDecodeLut => Laws.FieldsRebuild.morton2dDecodeLut
  | .morton3dEncodeLut => Laws.FieldsRebuild.morton3dEncodeLut
  | .morton3dDecodeLut => Laws.FieldsRebuild.morton3dDecodeLut
  | .morton2dEncodeMagic => Laws.FieldsRebuild.morton2dEncodeMagic
  | .morton2dDecodeMagic => Laws.FieldsRebuild.morton2dDecodeMagic
  | .morton3dEncodeMagic => Laws.FieldsRebuild.morton3dEncodeMagic
  | .morton3dDecodeMagic => Laws.FieldsRebuild.morton3dDecodeMagic
  | .morton2dEncodePbd => Laws.FieldsRebuild.morton2dEncodePbd
  | .morton2dDecodePbd => Laws.FieldsRebuild.morton2dDecodePbd
  | .morton3dEncodePbd => Laws.FieldsRebuild.morton3dEncodePbd
  | .morton3dDecodePbd => Laws.FieldsRebuild.morton3dDecodePbd

theorem ofFields_fields (i : Instr) : Instr.ofFields i.strategy i.dim i.dir = i := (fieldsRebuild i).1

theorem encode_ofFields (C : Strategy) (dim : Dim) (dir : Dir) :
    encode (Instr.ofFields C dim dir) = C.field ++ dim.field ++ dir.field := by
  cases C <;> cases dim <;> cases dir <;> rfl

/-! ## The decoder by the field `strat`, and its inverse (30_encoding R49, R53) -/

theorem decode_of_strat {w : OpCode} {C : Strategy} (h : C.field = w.extractLsb' 2 2) :
    decode w = .op (Instr.ofFields C (Dim.ofField (w.getLsbD 1)) (Dir.ofField (w.getLsbD 0))) := by
  simp only [decode, strategy_ofField_eq_some_iff.mpr h]

theorem decode_of_strat_reserved {w : OpCode} (h : w.extractLsb' 2 2 = 3#2) : decode w = .reserved w := by
  simp only [decode, (strategy_ofField_eq_none_iff _).mpr h]

/-- The two answers of the decoder, and when: it is total. -/
theorem decode_cases (w : OpCode) :
    (∃ C : Strategy, C.field = w.extractLsb' 2 2 ∧
        decode w = .op (Instr.ofFields C (Dim.ofField (w.getLsbD 1)) (Dir.ofField (w.getLsbD 0)))) ∨
      (w.extractLsb' 2 2 = 3#2 ∧ decode w = .reserved w) := by
  cases h : Strategy.ofField (w.extractLsb' 2 2) with
  | some C =>
    have hC := strategy_ofField_eq_some_iff.mp h
    exact .inl ⟨C, hC, decode_of_strat hC⟩
  | none =>
    have h3 := (strategy_ofField_eq_none_iff _).mp h
    exact .inr ⟨h3, decode_of_strat_reserved h3⟩

theorem decode_append_fields (C : Strategy) (dim : Dim) (dir : Dir) :
    decode (C.field ++ dim.field ++ dir.field) = .op (Instr.ofFields C dim dir) := by
  rw [decode_of_strat (strat_append_fields _ _ _).symm, dim_append_fields, dir_append_fields, dim_ofField_field,
    dir_ofField_field]

theorem decode_encode (i : Instr) : decode (encode i) = .op i := by
  rw [encode, decode_append_fields, ofFields_fields]

/-- The encoder undoes the decoder: the operation's fields are those read from the word, and these make up the word. -/
theorem encode_of_decode {w : OpCode} {i : Instr} (h : decode w = .op i) : encode i = w := by
  obtain ⟨C, hC, hd⟩ | ⟨-, hd⟩ := decode_cases w
  · obtain rfl := Decoded.op.inj (hd.symm.trans h)
    rw [encode_ofFields, hC, dim_field_ofField, dir_field_ofField, append_fields_eq_self]
  · rw [hd] at h
    cases h

theorem decode_of_twelve_le {w : OpCode} (h : 12 ≤ w.toNat) : decode w = .reserved w := by
  obtain ⟨C, -, hd⟩ | ⟨-, hd⟩ := decode_cases w
  · exact absurd ((decode_eq_op_iff w).mp ⟨_, hd⟩) (Nat.not_lt.mpr h)
  · exact hd

theorem step_of_reserved {s : State} {code : OpCode} (h : decode s.op = .reserved code) :
    step s = .refused (.reservedOp code) := by
  simp only [step, h]

/-! ## The opcode map (30_encoding R50) -/

/-- The twelve operations in the order of the table. -/
def opcodeMap : List Instr :=
  [.morton2dEncodeLut, .morton2dDecodeLut, .morton3dEncodeLut, .morton3dDecodeLut, .morton2dEncodeMagic,
    .morton2dDecodeMagic, .morton3dEncodeMagic, .morton3dDecodeMagic, .morton2dEncodePbd, .morton2dDecodePbd,
    .morton3dEncodePbd, .morton3dDecodePbd]

/-- The code of an operation is its position in the table. -/
theorem map_encode_opcodeMap : opcodeMap.map encode = (List.range 12).map (BitVec.ofNat 4) := by decide

theorem map_decode_map_encode (l : List Instr) : (l.map encode).map decode = l.map .op := by
  rw [List.map_map]
  exact List.map_congr_left fun i _ => decode_encode i

/-! ## The obligations -/

/-- Settles O5: codes below 12 step to the settled state; the others have no defined `strat` field. -/
theorem stepAnswersByCode : Obligations.StepAnswersByCode := by
  intro s
  split_ifs with h
  · have hd := decode_of_twelve_le h
    exact ⟨hd, step_of_reserved hd⟩
  · have hlt := Nat.lt_of_not_le h
    exact ⟨(decode_eq_op_iff s.op).mpr hlt, s.settle, step_eq_next_settle hlt⟩

/-- Settles O6. -/
theorem decodeAndEncodeAgree : Obligations.DecodeAndEncodeAgree :=
  ⟨decode_encode, fun _ _ => encode_of_decode⟩

/-- Settles O7. -/
theorem decodeReadsTheThreeFields : Obligations.DecodeReadsTheThreeFields :=
  ⟨decode_append_fields, fun d e => decode_of_strat_reserved (strat_append_fields 3#2 d e), fieldsRebuild⟩

/-- Settles O8: the words of the table are the encodings of its operations; the other columns follow from each
operation's own fields. -/
theorem opcodeMapIsTheTable : Obligations.OpcodeMapIsTheTable := by
  constructor
  · have h := map_decode_map_encode opcodeMap
    rw [map_encode_opcodeMap] at h
    exact h
  · rfl

end Sys2Proof.Machine

/-!
PROOFS of the family 40_lut: the four operations of one strategy in closed form, the limit of the 3D table decode as a
cut of the index (R64, R65), the interleaves of all-ones coordinates, and last the theorems that settle the obligations.
-/

namespace Sys2Proof.Machine

open Sys2Proof

/-! ## The closed form of each dimension and direction, for every strategy at once -/

section Fields
variable (C : Strategy) (dim : Dim) (dir : Dir)

theorem strategy_ofFields : (Instr.ofFields C dim dir).strategy = C := by cases C <;> cases dim <;> cases dir <;> rfl

theorem dim_ofFields : (Instr.ofFields C dim dir).dim = dim := by cases C <;> cases dim <;> cases dir <;> rfl

theorem dir_ofFields : (Instr.ofFields C dim dir).dir = dir := by cases C <;> cases dim <;> cases dir <;> rfl

end Fields

section DrivesByFields
variable (C : Strategy) (s : State)

theorem drives_encode2d : Drives (.ofFields C .d2 .encode) s (.index (ilv2 s.cfg.M s.inp.x s.inp.y)) := by
  simpa only [closedForm, dim_ofFields, dir_ofFields] using drives_closedForm (.ofFields C .d2 .encode) s

theorem drives_decode2d :
    Drives (.ofFields C .d2 .decode) s (.pair (dilv2 s.cfg.W s.inp.v 0) (dilv2 s.cfg.W s.inp.v 1)) := by
  simpa only [closedForm, dim_ofFields, dir_ofFields] using drives_closedForm (.ofFields C .d2 .decode) s

theorem drives_encode3d :
    Drives (.ofFields C .d3 .encode) s
      (.index (ilv3 s.cfg.M s.inp.x s.inp.y s.inp.z (encodeLimit C s.cfg.M))) := by
  simpa only [closedForm, dim_ofFields, dir_ofFields, strategy_ofFields] using
    drives_closedForm (.ofFields C .d3 .encode) s

theorem drives_decode3d :
    Drives (.ofFields C .d3 .decode) s
      (.triple (dilv3 s.cfg.W s.inp.v 0 (decodeLimit C s.cfg.M)) (dilv3 s.cfg.W s.inp.v 1 (decodeLimit C s.cfg.M))
        (dilv3 s.cfg.W s.inp.v 2 (decodeLimit C s.cfg.M))) := by
  simpa only [closedForm, dim_ofFields, dir_ofFields, strategy_ofFields] using
    drives_closedForm (.ofFields C .d3 .decode) s

end DrivesByFields

/-! ## The limit of the 3D decode as a cut of the index (40_lut R64, R65) -/

/-- Limiting the coordinate bits to `L` is reading, with no limit, the index cut at bit `3 * L`. -/
theorem dilv3_limit_eq_of_cut {M W a L : Nat} {v u : BitVec M} (ha : a < 3)
    (hcut : ∀ p, u.getLsbD p = (decide (p < 3 * L) && v.getLsbD p)) :
    dilv3 W v a (some L) = dilv3 W u a none := by
  apply BitVec.eq_of_getLsbD_eq
  intro k _
  simp only [getLsbD_dilv3, below, hcut, Bool.true_and, show 3 * k + a < 3 * L ↔ k < L by omega]

theorem dilv3_limit_eq_of_le {M W a L : Nat} (v : BitVec M) (ha : a < 3) (hM : M ≤ 3 * L) :
    dilv3 W v a (some L) = dilv3 W v a none := by
  refine dilv3_limit_eq_of_cut ha fun p => ?_
  by_cases hp : p < 3 * L
  · rw [decide_eq_true hp, Bool.true_and]
  · rw [BitVec.getLsbD_of_ge v p (by omega), Bool.and_false]

theorem getLsbD_clearBoundary {M : Nat} (v : BitVec M) (p : Nat) :
    (clearBoundary v).getLsbD p = (decide (p < boundary M) && v.getLsbD p) := by
  rw [clearBoundary, BitVec.getLsbD_and, getLsbD_ofBits]
  by_cases hp : p < M
  · rw [decide_eq_true hp, Bool.true_and, Bool.and_comm]
  · rw [BitVec.getLsbD_of_ge v p (by omega), Bool.false_and, Bool.and_false]

/-- The groups of the 3D decode cover every index of at most 32 bits. -/
theorem le_nine_mul_groupCount {M : Nat} (hM : M ≤ 32) : M ≤ 3 * (3 * groupCount M) := by
  simp only [groupCount]
  omega

/-- At M = 64 the seven groups end where the boundary bit `v[63]` begins. -/
theorem nine_mul_groupCount_eq_boundary {M : Nat} (hM : M = 64) : 3 * (3 * groupCount M) = boundary M := by
  subst hM
  rfl

/-! ## The interleaves of all-ones coordinates -/

theorem toNat_eq_two_pow_sub_one {N n : Nat} {b : BitVec N} (h : ∀ p, b.getLsbD p = decide (p < n)) :
    b.toNat = 2 ^ n - 1 := by
  apply Nat.eq_of_testBit_eq
  intro p
  rw [BitVec.testBit_toNat, h, Nat.testBit_two_pow_sub_one]

theorem ilv2_allOnes_toNat (M W : Nat) :
    (ilv2 M (BitVec.allOnes W) (BitVec.allOnes W)).toNat = 2 ^ min M (2 * W) - 1 := by
  apply toNat_eq_two_pow_sub_one
  intro p
  simp only [getLsbD_ilv2, BitVec.getLsbD_allOnes, ite_self, ← Bool.decide_and, Nat.lt_min,
    show p / 2 < W ↔ p < 2 * W by omega]

/-- A bit of a coordinate of width `W` takes part under the limit `L` when its number is below both. -/
theorem below_and_lt (k W : Nat) (L : Option Nat) : (below k L && decide (k < W)) = decide (k < capBy W L) := by
  cases L with
  | none => rfl
  | some L => simp only [below, capBy, Nat.lt_min, Bool.decide_and, Bool.and_comm]

theorem ilv3_allOnes_toNat (M W : Nat) (L : Option Nat) :
    (ilv3 M (BitVec.allOnes W) (BitVec.allOnes W) (BitVec.allOnes W) L).toNat = 2 ^ min M (3 * capBy W L) - 1 := by
  apply toNat_eq_two_pow_sub_one
  intro p
  simp only [getLsbD_ilv3, BitVec.getLsbD_allOnes, ite_self, below_and_lt, ← Bool.decide_and, Nat.lt_min,
    show p / 3 < capBy W L ↔ p < 3 * capBy W L by omega]

/-! ## The obligations -/

/-- Settles O25: the 2D encode in closed form, at the strategy of the tables. -/
theorem morton2dEncodeLutInterleaves : Obligations.Morton2dEncodeLutInterleaves := drives_encode2d .lut

/-- Settles O26: the 2D decode in closed form, at the strategy of the tables. -/
theorem morton2dDecodeLutDeinterleaves : Obligations.Morton2dDecodeLutDeinterleaves := drives_decode2d .lut

/-- Settles O27: the 3D encode in closed form, whose limit is none at the strategy of the tables. -/
theorem morton3dEncodeLutInterleaves : Obligations.Morton3dEncodeLutInterleaves := drives_encode3d .lut

/-- Settles O28: the 3D decode in closed form, its limit being a cut of the index at bit `9 * G(M)`. -/
theorem morton3dDecodeLutDeinterleaves : Obligations.Morton3dDecodeLutDeinterleaves := by
  intro s L
  refine ⟨drives_decode3d .lut s, fun hM a ha => ?_, fun hM a ha => ?_⟩
  · exact dilv3_limit_eq_of_le s.inp.v ha (le_nine_mul_groupCount hM)
  · refine dilv3_limit_eq_of_cut ha fun p => ?_
    rw [getLsbD_clearBoundary, nine_mul_groupCount_eq_boundary hM]

/-- Settles O37: every strategy's encodes are the interleaves, whose set bits are those below the smaller bound. -/
theorem encodesOfAllOnes : Obligations.EncodesOfAllOnes := by
  intro c op z v out C ones
  exact ⟨⟨_, drives_encode2d C _, ilv2_allOnes_toNat c.M c.W⟩,
    ⟨_, drives_encode3d C _, ilv3_allOnes_toNat c.M c.W (encodeLimit C c.M)⟩⟩

/-- Settles O19: the definitions evaluated at the four index widths. -/
theorem derivedConstantsAreTheTable : Obligations.DerivedConstantsAreTheTable := ⟨rfl, rfl, rfl⟩

end Sys2Proof.Machine

/-!
PROOFS of the family 41_magic: the step sequences as spreads and compactions (R69, R74), the number of bits they carry
at each index width (R72), the indices too narrow for any limit to cut (R78), and last the theorems that settle the
obligations.
-/

namespace Sys2Proof.Machine

open Sys2Proof

/-! ## The net functions as spreads and compactions (41_magic R69, R74) -/

theorem i32_bits_eq : Internal.i32.bits = 2 * 16 := rfl

theorem i64_bits_eq : Internal.i64.bits = 2 * 32 := rfl

section TwoDimensions
variable {I : Internal} {n : Nat} (hn : I.bits = 2 * n)
include hn

theorem split2_eq_spread2 (a : BitVec I.bits) : split2 I a = (spread2 (toWidth n a)).cast hn.symm := by
  apply BitVec.eq_of_getLsbD_eq
  intro p hp
  rw [getLsbD_split2, BitVec.getLsbD_cast, getLsbD_spread2, BitVec.getLsbD_setWidth, decide_eq_true hp, Bool.true_and,
    decide_eq_true (show p / 2 < n by omega), Bool.true_and]

theorem get2_eq_compact2 (b : BitVec I.bits) : get2 I b = toWidth I.bits (compact2 (b.cast hn)) := by
  apply BitVec.eq_of_getLsbD_eq
  intro k hk
  rw [getLsbD_get2, BitVec.getLsbD_setWidth, decide_eq_true hk, Bool.true_and, getLsbD_compact2, BitVec.getLsbD_cast]

/-- A get undoes a split as a compaction undoes a spread (00_scope R11), on the half that the split keeps. -/
theorem get2_split2 (a : BitVec I.bits) : get2 I (split2 I a) = toWidth I.bits (toWidth n a) := by
  rw [get2_eq_compact2 hn, split2_eq_spread2 hn, BitVec.cast_cast, BitVec.cast_eq, compact2_spread2]

end TwoDimensions

/-- All the bits a 3D sequence carries have a position in the word. -/
theorem three_mul_carriedBits_le (I : Internal) : 3 * carriedBits I ≤ I.bits := by cases I <;> decide

section ThreeDimensions
variable (I : Internal) (a : BitVec I.bits)

theorem split3_eq_spread3 : split3 I a = toWidth I.bits (spread3 (toWidth (carriedBits I) a)) := by
  apply BitVec.eq_of_getLsbD_eq
  intro p _
  rw [getLsbD_split3, BitVec.getLsbD_setWidth, getLsbD_spread3, BitVec.getLsbD_setWidth]

theorem get3_eq_ofBits : get3 I a = ofBits I.bits fun k => decide (k < carriedBits I) && a.getLsbD (3 * k) := by
  apply BitVec.eq_of_getLsbD_eq
  intro k hk
  rw [getLsbD_get3, getLsbD_ofBits, decide_eq_true hk, Bool.true_and]

theorem get3_split3 : get3 I (split3 I a) = toWidth I.bits (toWidth (carriedBits I) a) := by
  apply BitVec.eq_of_getLsbD_eq
  intro k hk
  rw [getLsbD_get3, getLsbD_split3, BitVec.getLsbD_setWidth, BitVec.getLsbD_setWidth]
  by_cases hK : k < carriedBits I
  · have hI := three_mul_carriedBits_le I
    simp [hk, hK, show 3 * k < I.bits by omega]
  · simp [hK]

end ThreeDimensions

/-! ## The number of carried bits at each index width (41_magic R66, R72) -/

theorem carriedBits_internalFor (c : Config) : carriedBits (internalFor c.M) = if c.M = 64 then 21 else 10 := by
  have hM := indexWidth_cases c
  by_cases h : c.M = 64
  · rw [h]
    rfl
  · rw [if_neg h, internalFor, if_pos (by omega), carriedBits]

/-! ## Limits that cut nothing (41_magic R78)

A limit `L` on the bits of a coordinate cuts nothing from an index of at most `3 * L` bits. -/

theorem ilv3_limit_eq_of_le {M W L : Nat} (x y z : BitVec W) (hM : M ≤ 3 * L) :
    ilv3 M x y z (some L) = ilv3 M x y z none := by
  apply BitVec.eq_of_getLsbD_eq
  intro p hp
  simp only [getLsbD_ilv3, below, show p / 3 < L by omega, decide_true]

/-- The 3 * 10 bits carried at I = 32 cover every narrow index. -/
theorem le_three_mul_carriedBits {M : Nat} (hM : M ≤ 16) : M ≤ 3 * carriedBits (internalFor M) := by
  rw [internalFor, if_pos (by omega), carriedBits]
  omega

theorem ilv3_encodeLimit_of_le {M W : Nat} (C : Strategy) (x y z : BitVec W) (hM : M ≤ 16) :
    ilv3 M x y z (encodeLimit C M) = ilv3 M x y z none := by
  cases C with
  | lut => rfl
  | magic => exact ilv3_limit_eq_of_le x y z (le_three_mul_carriedBits hM)
  | pbd => rfl

theorem dilv3_decodeLimit_of_le {M W a : Nat} (C : Strategy) (v : BitVec M) (ha : a < 3) (hM : M ≤ 16) :
    dilv3 W v a (decodeLimit C M) = dilv3 W v a none := by
  cases C with
  | lut => exact dilv3_limit_eq_of_le v ha (le_nine_mul_groupCount (by omega))
  | magic => exact dilv3_limit_eq_of_le v ha (le_three_mul_carriedBits hM)
  | pbd => rfl

/-- At the narrow index widths every strategy has the closed form of the strategy with no limits. -/
theorem closedForm_ofFields_eq_pbd {c : Config} (C : Strategy) (dim : Dim) (dir : Dir) (a : Inputs c)
    (hM : c.M ≤ 16) :
    closedForm c (.ofFields C dim dir) a = closedForm c (.ofFields .pbd dim dir) a := by
  simp only [closedForm, dim_ofFields, dir_ofFields, strategy_ofFields]
  cases dim with
  | d2 => cases dir <;> rfl
  | d3 =>
    cases dir with
    | encode => exact congrArg Outputs.index (ilv3_encodeLimit_of_le C a.x a.y a.z hM)
    | decode =>
      have hlimit (b : Nat) (hb : b < 3) := dilv3_decodeLimit_of_le (W := c.W) C a.v hb hM
      simp only [hlimit 0 (by decide), hlimit 1 (by decide), hlimit 2 (by decide)]
      rfl

/-! ## The obligations -/

/-- Settles O23: at each internal width the sequences are the spread and the compaction of half that width. -/
theorem magicSequences2dNetFunctions : Obligations.MagicSequences2dNetFunctions :=
  ⟨fun a => ⟨split2_eq_spread2 i32_bits_eq a, get2_eq_compact2 i32_bits_eq a, get2_split2 i32_bits_eq a⟩,
    fun a => ⟨split2_eq_spread2 i64_bits_eq a, get2_eq_compact2 i64_bits_eq a, get2_split2 i64_bits_eq a⟩⟩

/-- Settles O24: the sequences bit by bit, every carried bit having a position in the word. -/
theorem magicSequences3dNetFunctions : Obligations.MagicSequences3dNetFunctions :=
  fun I a => ⟨split3_eq_spread3 I a, get3_eq_ofBits I a, get3_split3 I a⟩

/-- Settles O29: the 2D encode in closed form, at the strategy of the step sequences. -/
theorem morton2dEncodeMagicInterleaves : Obligations.Morton2dEncodeMagicInterleaves := drives_encode2d .magic

/-- Settles O30: the 2D decode in closed form, at the strategy of the step sequences. -/
theorem morton2dDecodeMagicDeinterleaves : Obligations.Morton2dDecodeMagicDeinterleaves := drives_decode2d .magic

/-- Settles O31: the 3D encode in closed form, its limit being the number of carried bits. -/
theorem morton3dEncodeMagicInterleaves : Obligations.Morton3dEncodeMagicInterleaves := by
  intro s
  rw [← carriedBits_internalFor]
  exact drives_encode3d .magic s

/-- Settles O32: the 3D decode in closed form, its limit being the number of carried bits. -/
theorem morton3dDecodeMagicDeinterleaves : Obligations.Morton3dDecodeMagicDeinterleaves := by
  intro s
  rw [← carriedBits_internalFor]
  exact drives_decode3d .magic s

/-- Settles O49: both operations drive their closed form, and each of these is the one with no limit. -/
theorem promotionOfNarrowWidthsIsExact : Obligations.PromotionOfNarrowWidthsIsExact := by
  intro s C dim dir hM
  calc exec (.ofFields .magic dim dir) s
    _ = .next (s.drive (closedForm s.cfg (.ofFields .magic dim dir) s.inp)) := drives_closedForm _ s
    _ = .next (s.drive (closedForm s.cfg (.ofFields C dim dir) s.inp)) := by
      rw [closedForm_ofFields_eq_pbd .magic dim dir s.inp hM, closedForm_ofFields_eq_pbd C dim dir s.inp hM]
    _ = exec (.ofFields C dim dir) s := (drives_closedForm _ s).symm

end Sys2Proof.Machine

/-!
PROOFS of the family 42_pbd: the deposit and the extract under one mask as inverses (R85), and the four operations at the
strategy whose closed forms have no limit (R81 to R84).
-/

namespace Sys2Proof.Machine

open Sys2Proof

/-! ## Deposit and extract under one mask (42_pbd R85) -/

/-- The ranks of the set bits of a mask leave no gap: every count below the final one is the rank of a set bit. -/
theorem exists_rank_eq_of_lt {N : Nat} (m : BitVec N) {p k : Nat} (h : k < rank m p) :
    ∃ q, m.getLsbD q = true ∧ rank m q = k := by
  induction p with
  | zero => cases h
  | succ p ih =>
    by_cases hlt : k < rank m p
    · exact ih hlt
    · rw [rank_succ] at h
      cases hm : m.getLsbD p with
      | false => simp [hm, hlt] at h
      | true =>
        simp only [hm, if_true] at h
        exact ⟨p, hm, by omega⟩

/-- Below the mask's capacity each source bit is deposited at the set bit of its own rank, from where the extract takes
it back. -/
theorem getLsbD_extract_deposit {N : Nat} (a m : BitVec N) (k : Nat) :
    (extract (deposit a m) m).getLsbD k = (decide (k < popcount m) && a.getLsbD k) := by
  by_cases h : k < popcount m
  · obtain ⟨q, hm, rfl⟩ := exists_rank_eq_of_lt m h
    rw [getLsbD_extract_rank _ m hm, getLsbD_deposit, hm, decide_eq_true h]
  · rw [getLsbD_extract_of_popcount_le _ m (Nat.le_of_not_lt h), decide_eq_false h, Bool.false_and]

theorem toNat_extract_deposit {N : Nat} (a m : BitVec N) :
    (extract (deposit a m) m).toNat = a.toNat % 2 ^ popcount m := by
  apply Nat.eq_of_testBit_eq
  intro k
  rw [BitVec.testBit_toNat, getLsbD_extract_deposit, Nat.testBit_mod_two_pow, BitVec.testBit_toNat]

/-- At a set bit of the mask the deposit reads the bit that the extract put at that bit's rank. -/
theorem deposit_extract {N : Nat} (b m : BitVec N) : deposit (extract b m) m = b &&& m := by
  apply BitVec.eq_of_getLsbD_eq
  intro p _
  rw [getLsbD_deposit, BitVec.getLsbD_and]
  cases hm : m.getLsbD p with
  | false => rw [Bool.false_and, Bool.and_false]
  | true => rw [getLsbD_extract_rank b m hm, Bool.true_and, Bool.and_true]

/-! ## The obligations -/

/-- Settles O16: bit by bit, through the ranks of the mask's set bits. -/
theorem depositAndExtractAreInverse : Obligations.DepositAndExtractAreInverse :=
  fun _ a b m => ⟨toNat_extract_deposit a m, deposit_extract b m⟩

/-- Settles O33: the 2D encode in closed form, at the strategy of the deposits. -/
theorem morton2dEncodePbdInterleaves : Obligations.Morton2dEncodePbdInterleaves := drives_encode2d .pbd

/-- Settles O34: the 2D decode in closed form, at the strategy of the extracts. -/
theorem morton2dDecodePbdDeinterleaves : Obligations.Morton2dDecodePbdDeinterleaves := drives_decode2d .pbd

/-- Settles O35: the 3D encode in closed form, which has no limit at the strategy of the deposits. -/
theorem morton3dEncodePbdInterleaves : Obligations.Morton3dEncodePbdInterleaves := drives_encode3d .pbd

/-- Settles O36: the 3D decode in closed form, which has no limit at the strategy of the extracts. -/
theorem morton3dDecodePbdDeinterleaves : Obligations.Morton3dDecodePbdDeinterleaves := drives_decode3d .pbd

end Sys2Proof.Machine

/-!
PROOFS of the family 43_laws: what every law of the family rests on. Every operation carries the low bits of each
coordinate between the coordinate ports and the index, in either dimension: bit `k` of the coordinate of axis `a` stands
at index bit `n * k + a`, where `n` is the number of coordinates. So one lemma per direction gives each output bit of
all twelve operations.
-/

namespace Sys2Proof.Machine

open Sys2Proof

/-! ## The coordinate bits an operation carries (head of 43_laws) -/

/-- The number of coordinates that are interleaved. -/
def arity : Dim → Nat
  | .d2 => 2
  | .d3 => 3

/-- The limit on the bits of each coordinate: `Le` and `Ld` in 3D, none in 2D (00_scope R17, R18). -/
def bitLimit (M : Nat) (C : Strategy) : Dim → Dir → Option Nat
  | .d2, _ => none
  | .d3, .encode => encodeLimit C M
  | .d3, .decode => decodeLimit C M

/-- How many low bits of each coordinate an operation carries, index positions permitting. -/
def carried (c : Config) (C : Strategy) (dim : Dim) (dir : Dir) : Nat := capBy c.W (bitLimit c.M C dim dir)

/-- The input port of the coordinate of axis `a`. -/
def coordIn : Nat → InPort
  | 0 => .x
  | 1 => .y
  | _ => .z

/-- The axis whose coordinate an output port shows; `r` shows none, so it gets a number that is no axis. -/
def axisOf : OutPort → Nat
  | .cx => 0
  | .cy => 1
  | .cz => 2
  | .r => 3

theorem arity_cases (dim : Dim) : arity dim = 2 ∨ arity dim = 3 := by cases dim <;> simp [arity]

theorem axisOf_injective {P Q : OutPort} (h : axisOf P = axisOf Q) : P = Q := by
  revert h
  cases P <;> cases Q <;> decide

theorem exists_axisOf_eq {a : Nat} (h : a < 3) : ∃ P, axisOf P = a := by
  match a with
  | 0 => exact ⟨.cx, rfl⟩
  | 1 => exact ⟨.cy, rfl⟩
  | 2 => exact ⟨.cz, rfl⟩

theorem coordIn_injective {a b : Nat} (ha : a < 3) (hb : b < 3) (h : coordIn a = coordIn b) : a = b := by
  have hall : ∀ a < 3, ∀ b < 3, coordIn a = coordIn b → a = b := by decide
  exact hall a ha b hb h

theorem instr_eq_ofFields (i : Instr) : ∃ C dim dir, i = .ofFields C dim dir :=
  ⟨i.strategy, i.dim, i.dir, (ofFields_fields i).symm⟩

theorem lt_capBy_iff (k n : Nat) (L : Option Nat) : k < capBy n L ↔ k < n ∧ below k L = true := by
  cases L <;> simp [capBy, below]

/-- Two limits in a row leave what both leave. -/
theorem capBy_capBy (n : Nat) (L L' : Option Nat) : capBy (capBy n L) L' = min (capBy n L) (capBy n L') := by
  cases L <;> cases L' <;> simp only [capBy] <;> omega

theorem carried_d2 (c : Config) (C : Strategy) (dir : Dir) : carried c C .d2 dir = c.W := rfl

theorem carried_le (c : Config) (C : Strategy) (dim : Dim) (dir : Dir) : carried c C dim dir ≤ c.W := by
  rw [carried]
  cases bitLimit c.M C dim dir with
  | none => exact Nat.le_refl _
  | some L => exact Nat.min_le_left _ _

/-- A coordinate port has no bit from W up, so the width of the coordinate limits nothing there. -/
theorem carried_and_inBit {c : Config} (C : Strategy) (dim : Dim) (dir : Dir) (a : Inputs c) (n k : Nat) :
    (decide (k < carried c C dim dir) && inBit a (coordIn n) k) =
      (below k (bitLimit c.M C dim dir) && inBit a (coordIn n) k) := by
  rw [carried, ← below_and_lt, Bool.and_assoc]
  congr 1
  by_cases hk : k < c.W
  · rw [decide_eq_true hk, Bool.true_and]
  · rw [decide_eq_false hk, Bool.false_and]
    have hge := Nat.le_of_not_lt hk
    match n with
    | 0 => exact (BitVec.getLsbD_of_ge a.x k hge).symm
    | 1 => exact (BitVec.getLsbD_of_ge a.y k hge).symm
    | _ + 2 => exact (BitVec.getLsbD_of_ge a.z k hge).symm

/-! ## Every output bit of every operation -/

/-- An encode puts bit `p / n` of the coordinate of axis `p % n` at index bit `p`. -/
theorem getLsbD_closedForm_encode {c : Config} (C : Strategy) (dim : Dim) (a : Inputs c) (p : Nat) :
    (closedForm c (.ofFields C dim .encode) a).r.getLsbD p =
      (decide (p < c.M) && (decide (p / arity dim < carried c C dim .encode) &&
        inBit a (coordIn (p % arity dim)) (p / arity dim))) := by
  rw [carried_and_inBit]
  cases dim with
  | d2 =>
    simp only [closedForm, dim_ofFields, dir_ofFields, index_r, getLsbD_ilv2, arity, bitLimit, below, Bool.true_and]
    obtain h | h := Nat.mod_two_eq_zero_or_one p <;> simp [h, coordIn, inBit]
  | d3 =>
    simp only [closedForm, dim_ofFields, dir_ofFields, strategy_ofFields, index_r, getLsbD_ilv3, arity, bitLimit]
    obtain h | h | h : p % 3 = 0 ∨ p % 3 = 1 ∨ p % 3 = 2 := by omega
    all_goals simp [h, coordIn, inBit]

theorem outBit_index_of_ne {c : Config} (r : BitVec c.M) {P : OutPort} (hP : P ≠ .r) (p : Nat) :
    outBit (.index r : Outputs c) P p = false := by
  cases P with
  | r => exact absurd rfl hP
  | cx | cy | cz => exact BitVec.getLsbD_zero

/-- An encode shows its result on `r` alone. -/
theorem outBit_closedForm_encode_of_ne {c : Config} (C : Strategy) (dim : Dim) (a : Inputs c) {P : OutPort}
    (hP : P ≠ .r) (p : Nat) : outBit (closedForm c (.ofFields C dim .encode) a) P p = false := by
  cases dim <;> simpa only [closedForm, dim_ofFields, dir_ofFields] using outBit_index_of_ne _ hP p

/-- A decode shows index bit `n * k + a` at bit `k` of the coordinate of axis `a`, and 0 where there is no axis. -/
theorem outBit_closedForm_decode {c : Config} (C : Strategy) (dim : Dim) (a : Inputs c) (P : OutPort) (k : Nat) :
    outBit (closedForm c (.ofFields C dim .decode) a) P k =
      (decide (axisOf P < arity dim) && (decide (k < carried c C dim .decode) &&
        a.v.getLsbD (arity dim * k + axisOf P))) := by
  rw [carried, ← below_and_lt]
  cases dim with
  | d2 =>
    simp only [closedForm, dim_ofFields, dir_ofFields, arity, bitLimit, below, Bool.true_and]
    cases P <;> simp [outBit, axisOf, getLsbD_dilv2]
  | d3 =>
    simp only [closedForm, dim_ofFields, dir_ofFields, strategy_ofFields, arity, bitLimit]
    cases P <;> simp [outBit, axisOf, getLsbD_dilv3, Bool.and_left_comm, Bool.and_assoc]

end Sys2Proof.Machine

/-!
PROOFS of the family 43_laws: the round trips (R88 to R93, R95). A decode fed by an encode gives back the coordinate
bits that both carry (R88, R89); an encode fed by a decode gives the index cut by one mask (R90), from which the laws on
longer chains follow (R91 to R93).
-/

namespace Sys2Proof.Machine

open Sys2Proof

theorem toNat_eq_mod_two_pow {N N' n : Nat} {b : BitVec N} {a : BitVec N'}
    (h : ∀ k, b.getLsbD k = (decide (k < n) && a.getLsbD k)) : b.toNat = a.toNat % 2 ^ n := by
  apply Nat.eq_of_testBit_eq
  intro k
  rw [BitVec.testBit_toNat, h, Nat.testBit_mod_two_pow, BitVec.testBit_toNat]

/-! ## From coordinates to an index and back (43_laws R88, R89) -/

/-- The number of low bits of the coordinate of axis `a` that an encode by `enc` and a decode by `dec` keep: those that
both carry and that have a position in the index. -/
def keptBits (c : Config) (dec enc : Strategy) (dim : Dim) (a : Nat) : Nat :=
  min (min (carried c enc dim .encode) (carried c dec dim .decode)) ((c.M - a + (arity dim - 1)) / arity dim)

theorem lt_keptBits_iff (c : Config) (dec enc : Strategy) (dim : Dim) (a k : Nat) :
    k < keptBits c dec enc dim a ↔
      (k < carried c enc dim .encode ∧ k < carried c dec dim .decode) ∧ arity dim * k + a < c.M := by
  rw [keptBits, Nat.lt_min, Nat.lt_min]
  obtain h | h := arity_cases dim <;> rw [h] <;> omega

theorem keptBits_d2 (c : Config) (dec enc : Strategy) {a : Nat} (ha : a < 2) :
    keptBits c dec enc .d2 a = min c.W (c.M / 2) := by
  have hM := indexWidth_cases c
  simp only [keptBits, carried_d2, arity]
  omega

theorem keptBits_d3 (c : Config) (dec enc : Strategy) (a : Nat) :
    keptBits c dec enc .d3 a = survivingBits c dec enc a := by
  simp only [keptBits, survivingBits, capBy_capBy, axisCapacity, carried, bitLimit, arity]

/-- The outputs of a decode by `dec` at the index that an encode by `enc` of the inputs `a` shows. -/
theorem outBit_decode_encode {c : Config} (dec enc : Strategy) (dim : Dim) {a b : Inputs c}
    (hb : b.v = (closedForm c (.ofFields enc dim .encode) a).r) (P : OutPort) (hP : axisOf P < arity dim) (k : Nat) :
    outBit (closedForm c (.ofFields dec dim .decode) b) P k =
      (decide (k < keptBits c dec enc dim (axisOf P)) && inBit a (coordIn (axisOf P)) k) := by
  have hn : 0 < arity dim := by omega
  rw [outBit_closedForm_decode, hb, getLsbD_closedForm_encode, Nat.mul_add_mod, Nat.mod_eq_of_lt hP,
    Nat.mul_add_div hn, Nat.div_eq_of_lt hP, Nat.add_zero]
  simp only [decide_eq_true hP, Bool.true_and, lt_keptBits_iff, Bool.decide_and]
  ac_rfl

theorem drives_encode_then_decode (s : State) (dec enc : Strategy) (dim : Dim) : ∃ o₁ o₂ : Outputs s.cfg,
    Drives (.ofFields enc dim .encode) s o₁ ∧
      Drives (.ofFields dec dim .decode) (s.drive o₁).feedIndex o₂ ∧
      ∀ P, axisOf P < arity dim → ∀ k,
        outBit o₂ P k = (decide (k < keptBits s.cfg dec enc dim (axisOf P)) && inBit s.inp (coordIn (axisOf P)) k) :=
  ⟨_, _, drives_closedForm _ s, drives_closedForm _ _, fun P hP k => outBit_decode_encode dec enc dim rfl P hP k⟩

/-! ## From an index to coordinates and back (43_laws R90) -/

/-- The index bits that a decode by `dec` and an encode by `enc` keep: `KEEP`, in either dimension. -/
def keptMask (c : Config) (dec enc : Strategy) (dim : Dim) : BitVec c.M :=
  ofBits c.M fun p => decide (p / arity dim < min (carried c dec dim .decode) (carried c enc dim .encode))

theorem getLsbD_and_keptMask {c : Config} (dec enc : Strategy) (dim : Dim) (v : BitVec c.M) (p : Nat) :
    (v &&& keptMask c dec enc dim).getLsbD p =
      (decide (p / arity dim < carried c dec dim .decode) &&
        (decide (p / arity dim < carried c enc dim .encode) && v.getLsbD p)) := by
  rw [BitVec.getLsbD_and, keptMask, getLsbD_ofBits, Bool.decide_congr Nat.lt_min, Bool.decide_and]
  by_cases hp : p < c.M
  · rw [decide_eq_true hp, Bool.true_and, Bool.and_comm, Bool.and_assoc]
  · simp only [BitVec.getLsbD_of_ge v p (Nat.le_of_not_lt hp), Bool.false_and, Bool.and_false]

/-- A second round trip cuts nothing more. -/
theorem and_keptMask_self {c : Config} (dec enc : Strategy) (dim : Dim) (v : BitVec c.M) :
    v &&& keptMask c dec enc dim &&& keptMask c dec enc dim = v &&& keptMask c dec enc dim := by
  rw [BitVec.and_assoc, BitVec.and_self]

theorem keptMask_d3 (c : Config) (dec enc : Strategy) : keptMask c dec enc .d3 = keepMask c dec enc := by
  simp only [keptMask, keepMask, capBy_capBy]
  rfl

/-- In 2D the mask keeps the low bits of the index, as far as the two coordinates reach. -/
theorem toNat_and_keptMask_d2 {c : Config} (dec enc : Strategy) (v : BitVec c.M) :
    (v &&& keptMask c dec enc .d2).toNat = v.toNat % 2 ^ min c.M (2 * c.W) := by
  apply toNat_eq_mod_two_pow
  intro p
  rw [getLsbD_and_keptMask, carried_d2, carried_d2, arity]
  by_cases hp : p < c.M
  · simp [hp, show p / 2 < c.W ↔ p < 2 * c.W by omega]
  · simp [BitVec.getLsbD_of_ge v p (Nat.le_of_not_lt hp)]

/-- `State.feedCoords` presents each shown coordinate at the input port of its axis. -/
theorem inBit_feedCoords (s : State) {P : OutPort} (hP : axisOf P < 3) (k : Nat) :
    inBit s.feedCoords.inp (coordIn (axisOf P)) k = outBit s.out P k := by
  cases P with
  | r => exact absurd hP (by decide)
  | cx | cy | cz => rfl

/-- What an encode by `enc` shows of the coordinates that a decode by `dec` of the inputs `a` shows. -/
theorem closedForm_encode_decode {c : Config} (dec enc : Strategy) (dim : Dim) {a b : Inputs c}
    (hb : ∀ P, axisOf P < 3 → ∀ k,
      inBit b (coordIn (axisOf P)) k = outBit (closedForm c (.ofFields dec dim .decode) a) P k) :
    (closedForm c (.ofFields enc dim .encode) b).r = a.v &&& keptMask c dec enc dim := by
  apply BitVec.eq_of_getLsbD_eq
  intro p hp
  have hn := arity_cases dim
  have hr : p % arity dim < arity dim := Nat.mod_lt p (by omega)
  obtain ⟨P, hP⟩ := exists_axisOf_eq (show p % arity dim < 3 by omega)
  rw [getLsbD_closedForm_encode, getLsbD_and_keptMask, ← hP, hb P (by omega), outBit_closedForm_decode, hP,
    Nat.div_add_mod, decide_eq_true hp, decide_eq_true hr, Bool.true_and, Bool.true_and, Bool.and_left_comm]

theorem drives_decode_then_encode (s : State) (dec enc : Strategy) (dim : Dim) : ∃ o₁ o₂ : Outputs s.cfg,
    Drives (.ofFields dec dim .decode) s o₁ ∧
      Drives (.ofFields enc dim .encode) (s.drive o₁).feedCoords o₂ ∧
      o₂.r = s.inp.v &&& keptMask s.cfg dec enc dim :=
  ⟨_, _, drives_closedForm _ s, drives_closedForm _ _,
    closedForm_encode_decode dec enc dim fun _ hP => inBit_feedCoords _ hP⟩

/-- The same, of the index that an earlier evaluation shows. -/
theorem drives_reencode (s : State) (o : Outputs s.cfg) (dec enc : Strategy) (dim : Dim) : ∃ o₁ o₂ : Outputs s.cfg,
    Drives (.ofFields dec dim .decode) (s.drive o).feedIndex o₁ ∧
      Drives (.ofFields enc dim .encode) ((s.drive o).feedIndex.drive o₁).feedCoords o₂ ∧
      o₂.r = o.r &&& keptMask s.cfg dec enc dim :=
  drives_decode_then_encode (s.drive o).feedIndex dec enc dim

/-! ## The counts and the masks at W = M (43_laws R89, R90) -/

theorem width_bits_injective {w w' : Width} (h : w.bits = w'.bits) : w = w' :=
  Option.some.inj ((width_ofBits?_eq_some_iff.mpr h).symm.trans (width_ofBits?_eq_some_iff.mpr rfl))

theorem exists_eq_square {c : Config} (h : c.W = c.M) : ∃ w : Width, c = ⟨w, w, Nat.le_refl _⟩ := by
  obtain ⟨coord, index, hle⟩ := c
  obtain rfl : coord = index := width_bits_injective h
  exact ⟨coord, rfl⟩

theorem keepMask_toNat (c : Config) (dec enc : Strategy) :
    (keepMask c dec enc).toNat =
      2 ^ min c.M (3 * capBy (capBy c.W (decodeLimit dec c.M)) (encodeLimit enc c.M)) - 1 := by
  apply toNat_eq_two_pow_sub_one
  intro p
  rw [keepMask, getLsbD_ofBits, ← Bool.decide_and]
  exact Bool.decide_congr (by omega)

/-! ## The obligations -/

/-- Settles O38: in 2D both strategies carry every bit of the coordinates, and the index has M/2 positions for each. -/
theorem roundTrip2d : Obligations.RoundTrip2d := by
  intro s dec enc
  obtain ⟨o₁, o₂, h₁, h₂, hbits⟩ := drives_encode_then_decode s dec enc .d2
  have hx := toNat_eq_mod_two_pow (hbits .cx (by decide))
  have hy := toNat_eq_mod_two_pow (hbits .cy (by decide))
  rw [keptBits_d2 _ _ _ (by decide)] at hx hy
  exact ⟨o₁, o₂, h₁, h₂, hx, hy⟩

/-- Settles O39: the surviving bits are those that both strategies carry and that have a position. -/
theorem roundTrip3d : Obligations.RoundTrip3d := by
  refine ⟨fun s dec enc => ?_, fun c hc => ?_⟩
  · obtain ⟨o₁, o₂, h₁, h₂, hbits⟩ := drives_encode_then_decode s dec enc .d3
    simp only [keptBits_d3] at hbits
    exact ⟨o₁, o₂, h₁, h₂, toNat_eq_mod_two_pow (hbits .cx (by decide)),
      toNat_eq_mod_two_pow (hbits .cy (by decide)), toNat_eq_mod_two_pow (hbits .cz (by decide))⟩
  · obtain ⟨w, rfl⟩ := exists_eq_square hc
    cases w <;> rfl

/-- Settles O40: each round trip cuts the index by one mask, which in 2D keeps a run of low bits. -/
theorem indexRoundTrip : Obligations.IndexRoundTrip := by
  refine ⟨fun s dec enc => ⟨?_, ?_⟩, fun c hc => ?_⟩
  · obtain ⟨o₁, o₂, h₁, h₂, hr⟩ := drives_decode_then_encode s dec enc .d2
    exact ⟨o₁, o₂, h₁, h₂, hr ▸ toNat_and_keptMask_d2 dec enc s.inp.v⟩
  · rw [← keptMask_d3]
    exact drives_decode_then_encode s dec enc .d3
  · simp only [keepMask_toNat]
    obtain ⟨w, rfl⟩ := exists_eq_square hc
    cases w <;> rfl

/-- Settles O41: each of the two round trips cuts the index by the same mask. -/
theorem doubleIndexRoundTripIsIdempotent : Obligations.DoubleIndexRoundTripIsIdempotent := by
  intro s C dim
  obtain ⟨o₁, o₂, h₁, h₂, hr⟩ := drives_decode_then_encode s C C dim
  obtain ⟨o₃, o₄, h₃, h₄, hr'⟩ := drives_reencode (s.drive o₁).feedCoords o₂ C C dim
  refine ⟨o₁, o₂, o₃, o₄, h₁, ⟨h₂, h₃, h₄⟩, hr'.trans ?_⟩
  rw [hr]
  exact and_keptMask_self C C dim s.inp.v

end Sys2Proof.Machine

/-!
PROOFS of the family 43_laws: where the limits of the strategies show. One strategy's decode carries what its encode
carries but for the last bit of the tables at M = 64 (R92); in 2D there are no limits (R93); below the boundary bits no
limit cuts anything (R95).
-/

namespace Sys2Proof.Machine

open Sys2Proof

/-! ## Encode, decode, encode by one strategy (43_laws R92) -/

theorem groupCount_of_eq_64 {M : Nat} (hM : M = 64) : groupCount M = 7 := by rw [hM]; rfl

/-- The groups of the 3D decode leave out bit 63 and no other bit of an index. -/
theorem lt_nine_mul_groupCount {c : Config} {p : Nat} (hp : p < c.M) (hlast : ¬ (c.M = 64 ∧ p = 63)) :
    p / 3 < 3 * groupCount c.M := by
  by_cases hM : c.M ≤ 32
  · have := le_nine_mul_groupCount hM
    omega
  · have hM64 : c.M = 64 := by have := indexWidth_cases c; omega
    have hG := groupCount_of_eq_64 hM64
    omega

theorem carried_decode_of_encode {c : Config} {C : Strategy} {dim : Dim} {p : Nat} (hp : p < c.M)
    (h : p / arity dim < carried c C dim .encode) (hlast : ¬ (C = .lut ∧ dim = .d3 ∧ c.M = 64 ∧ p = 63)) :
    p / arity dim < carried c C dim .decode := by
  cases dim with
  | d2 => exact h
  | d3 =>
    cases C with
    | magic => exact h
    | pbd => exact h
    | lut =>
      have hG := lt_nine_mul_groupCount hp fun hM => hlast ⟨rfl, rfl, hM⟩
      exact (lt_capBy_iff _ _ _).mpr ⟨h, decide_eq_true hG⟩

/-- The excepted bit, as the table encode places it. -/
theorem getLsbD_closedForm_encode_lut_last {c : Config} (a : Inputs c) (hM : c.M = 64) :
    (closedForm c (.ofFields .lut .d3 .encode) a).r.getLsbD 63 = a.x.getLsbD 21 := by
  rw [getLsbD_closedForm_encode, carried_and_inBit, decide_eq_true (show 63 < c.M by omega)]
  rfl

/-- The excepted bit is bit 21 of a coordinate, one more than the table decode carries. -/
theorem not_lt_carried_decode_lut {c : Config} (hM : c.M = 64) : ¬ 21 < carried c .lut .d3 .decode := by
  have hG := groupCount_of_eq_64 hM
  simp only [carried, bitLimit, decodeLimit, capBy]
  omega

theorem closedForm_encode_and_keptMask_iff {c : Config} (C : Strategy) (dim : Dim) (a : Inputs c) :
    (closedForm c (.ofFields C dim .encode) a).r &&& keptMask c C C dim = (closedForm c (.ofFields C dim .encode) a).r ↔
      ¬ (C = .lut ∧ dim = .d3 ∧ c.M = 64 ∧ a.x.getLsbD 21 = true) := by
  constructor
  · rintro h ⟨rfl, rfl, hM, hx⟩
    have hbit := congrArg (BitVec.getLsbD · 63) h
    simp only [getLsbD_and_keptMask, getLsbD_closedForm_encode_lut_last a hM, hx] at hbit
    obtain ⟨hdec, -⟩ := Bool.and_eq_true_iff.mp hbit
    exact not_lt_carried_decode_lut hM (of_decide_eq_true hdec)
  · intro hx
    apply BitVec.eq_of_getLsbD_eq
    intro p hp
    rw [getLsbD_and_keptMask]
    cases hbit : (closedForm c (.ofFields C dim .encode) a).r.getLsbD p with
    | false => rw [Bool.and_false, Bool.and_false]
    | true =>
      have hcarried : p / arity dim < carried c C dim .encode := by
        rw [getLsbD_closedForm_encode] at hbit
        simp only [Bool.and_eq_true, decide_eq_true_eq] at hbit
        obtain ⟨-, h, -⟩ := hbit
        exact h
      have hdec : p / arity dim < carried c C dim .decode := by
        refine carried_decode_of_encode hp hcarried ?_
        rintro ⟨rfl, rfl, hM, rfl⟩
        rw [getLsbD_closedForm_encode_lut_last a hM] at hbit
        exact hx ⟨rfl, rfl, hM, hbit⟩
      rw [decide_eq_true hcarried, decide_eq_true hdec, Bool.and_self, Bool.and_self]

/-! ## The index below its boundary bits (43_laws R95) -/

theorem boundary_le_limit (c : Config) (C : Strategy) (dir : Dir) :
    ∀ L ∈ bitLimit c.M C .d3 dir, boundary c.M ≤ 3 * L := by
  have htable : boundary c.M ≤ 3 * (3 * groupCount c.M) ∧ boundary c.M ≤ 3 * carriedBits (internalFor c.M) := by
    obtain h | h | h | h := indexWidth_cases c <;> rw [h] <;> decide
  obtain ⟨hlut, hmagic⟩ := htable
  cases C <;> cases dir <;> simp [bitLimit, encodeLimit, decodeLimit, hlut, hmagic]

/-- Below the boundary bits only the width of the coordinates limits what an operation carries. -/
theorem lt_carried_iff_of_lt_boundary {c : Config} (C : Strategy) (dir : Dir) {k p : Nat} (hp : p < boundary c.M)
    (hk : k = p / 3) : k < carried c C .d3 dir ↔ k < c.W := by
  rw [carried, lt_capBy_iff, and_iff_left_iff_imp]
  intro _
  cases hL : bitLimit c.M C .d3 dir with
  | none => rfl
  | some L =>
    have := boundary_le_limit c C dir L hL
    exact decide_eq_true (by omega)

theorem carried_and_clearBoundary {c : Config} (C : Strategy) (dir : Dir) (v : BitVec c.M) {k p : Nat}
    (hk : k = p / 3) :
    (decide (k < carried c C .d3 dir) && (clearBoundary v).getLsbD p) =
      (decide (k < c.W) && (clearBoundary v).getLsbD p) := by
  rw [getLsbD_clearBoundary]
  by_cases hp : p < boundary c.M
  · rw [Bool.decide_congr (lt_carried_iff_of_lt_boundary C dir hp hk)]
  · rw [decide_eq_false hp, Bool.false_and, Bool.and_false, Bool.and_false]

theorem toNat_clearBoundary_and_keptMask {c : Config} (dec enc : Strategy) (v : BitVec c.M) :
    (clearBoundary v &&& keptMask c dec enc .d3).toNat = (clearBoundary v).toNat % 2 ^ (3 * c.W) := by
  apply toNat_eq_mod_two_pow
  intro p
  rw [getLsbD_and_keptMask, arity, carried_and_clearBoundary enc .encode v rfl, Bool.and_left_comm,
    carried_and_clearBoundary dec .decode v rfl, ← Bool.and_assoc, Bool.and_self]
  exact congrArg (· && _) (Bool.decide_congr (by omega))

theorem outputs_ext_outBit {c : Config} {o o' : Outputs c} (h : ∀ P p, outBit o P p = outBit o' P p) : o = o' := by
  have hr : o.r = o'.r := BitVec.eq_of_getLsbD_eq fun p _ => h .r p
  have hx : o.cx = o'.cx := BitVec.eq_of_getLsbD_eq fun p _ => h .cx p
  have hy : o.cy = o'.cy := BitVec.eq_of_getLsbD_eq fun p _ => h .cy p
  have hz : o.cz = o'.cz := BitVec.eq_of_getLsbD_eq fun p _ => h .cz p
  cases o
  cases o'
  simp_all

theorem closedForm_decode_clearBoundary {c : Config} (C C' : Strategy) {a : Inputs c} {v : BitVec c.M}
    (ha : a.v = clearBoundary v) :
    closedForm c (.ofFields C .d3 .decode) a = closedForm c (.ofFields C' .d3 .decode) a := by
  apply outputs_ext_outBit
  intro P k
  rw [outBit_closedForm_decode, outBit_closedForm_decode, ha, arity]
  by_cases hP : axisOf P < 3
  · have hk : k = (3 * k + axisOf P) / 3 := by omega
    rw [carried_and_clearBoundary C .decode v hk, carried_and_clearBoundary C' .decode v hk]
  · rw [decide_eq_false hP, Bool.false_and, Bool.false_and]

/-- Operations with one closed form are one function. -/
theorem exec_eq_of_closedForm_eq {i j : Instr} {s : State} (h : closedForm s.cfg i s.inp = closedForm s.cfg j s.inp) :
    exec i s = exec j s := by
  rw [drives_closedForm i s, drives_closedForm j s, h]

/-! ## The obligations -/

/-- Settles O42: the last index is the first cut by the mask of the strategy, which cuts the excepted bit only. -/
theorem sameStrategyClosureWithOneException : Obligations.SameStrategyClosureWithOneException := by
  intro s C dim
  obtain ⟨o₂, o₃, h₂, h₃, hr⟩ := drives_reencode s (closedForm s.cfg (.ofFields C dim .encode) s.inp) C C dim
  refine ⟨_, o₂, o₃, drives_closedForm _ s, ⟨h₂, h₃⟩, ?_⟩
  rw [hr]
  exact closedForm_encode_and_keptMask_iff C dim s.inp

/-- Settles O43: the closed forms in 2D do not depend on the strategy, and wide coordinates hold the whole index. -/
theorem strategiesAgreeIn2d : Obligations.StrategiesAgreeIn2d := by
  refine ⟨fun s C => ⟨drives_encode2d C s, drives_decode2d C s⟩, fun s dec enc hW => ?_⟩
  obtain ⟨o₁, o₂, h₁, h₂, hr⟩ := drives_decode_then_encode s dec enc .d2
  refine ⟨o₁, o₂, h₁, h₂, BitVec.eq_of_toNat_eq ?_⟩
  have hM : min s.cfg.M (2 * s.cfg.W) = s.cfg.M := by have := indexWidth_cases s.cfg; omega
  rw [hr, toNat_and_keptMask_d2, hM, Nat.mod_eq_of_lt s.inp.v.isLt]

/-- Settles O45: below the boundary bits neither the decodes nor the masks depend on the strategies. -/
theorem agreementIn3dAfterClearingTheBoundary : Obligations.AgreementIn3dAfterClearingTheBoundary := by
  intro s dec enc t
  obtain ⟨o₁, o₂, h₁, h₂, hr⟩ := drives_decode_then_encode t dec enc .d3
  refine ⟨exec_eq_of_closedForm_eq (closedForm_decode_clearBoundary dec enc rfl), o₁, o₂, h₁, h₂, ?_⟩
  rw [hr]
  exact toNat_clearBoundary_and_keptMask dec enc s.inp.v

end Sys2Proof.Machine

/-!
PROOFS of the family 43_laws: every operation as a wiring (R97), read off its output bits in closed form; that the
operations are bitwise follows from the wiring alone.
-/

namespace Sys2Proof.Machine

open Sys2Proof

/-- The input bit that feeds bit `p` of the output port `P`, where one does. -/
def wiring (c : Config) (C : Strategy) (dim : Dim) : Dir → OutPort → Nat → Option (InPort × Nat)
  | .encode, P, p =>
    if P = .r ∧ p < c.M ∧ p / arity dim < carried c C dim .encode then some (coordIn (p % arity dim), p / arity dim)
    else none
  | .decode, P, p =>
    if axisOf P < arity dim ∧ p < carried c C dim .decode ∧ arity dim * p + axisOf P < c.M then
      some (.v, arity dim * p + axisOf P)
    else none

/-- The value of an output bit fed by `b`: a constant 0 where no input bit feeds it. -/
def fedBy {c : Config} (inp : Inputs c) (b : Option (InPort × Nat)) : Bool :=
  match b with
  | none => false
  | some (Q, q) => inBit inp Q q

section Wiring
variable {c : Config} {C : Strategy} {dim : Dim}

theorem wiring_encode_eq_some_iff {P : OutPort} {p : Nat} {b : InPort × Nat} :
    wiring c C dim .encode P p = some b ↔
      (P = .r ∧ p < c.M ∧ p / arity dim < carried c C dim .encode) ∧
        (coordIn (p % arity dim), p / arity dim) = b := by
  rw [wiring, Option.ite_none_right_eq_some, Option.some_inj]

theorem wiring_decode_eq_some_iff {P : OutPort} {p : Nat} {b : InPort × Nat} :
    wiring c C dim .decode P p = some b ↔
      (axisOf P < arity dim ∧ p < carried c C dim .decode ∧ arity dim * p + axisOf P < c.M) ∧
        (.v, arity dim * p + axisOf P) = b := by
  rw [wiring, Option.ite_none_right_eq_some, Option.some_inj]

theorem fedBy_ite (inp : Inputs c) (h : Prop) [Decidable h] (Q : InPort) (q : Nat) :
    fedBy inp (if h then some (Q, q) else none) = (decide h && inBit inp Q q) := by
  by_cases hh : h <;> simp [hh, fedBy]

/-- The closed form of an operation is its wiring. -/
theorem outBit_closedForm (dir : Dir) (a : Inputs c) (P : OutPort) (p : Nat) :
    outBit (closedForm c (.ofFields C dim dir) a) P p = fedBy a (wiring c C dim dir P p) := by
  cases dir with
  | encode =>
    rw [wiring, fedBy_ite, Bool.decide_and, Bool.decide_and]
    by_cases hP : P = .r
    · subst hP
      rw [outBit, getLsbD_closedForm_encode, decide_eq_true rfl, Bool.true_and, Bool.and_assoc]
    · rw [outBit_closedForm_encode_of_ne C dim a hP, decide_eq_false hP, Bool.false_and, Bool.false_and]
  | decode =>
    rw [wiring, fedBy_ite, outBit_closedForm_decode, inBit]
    by_cases hM : arity dim * p + axisOf P < c.M
    · simp only [hM, and_true, Bool.decide_and, Bool.and_assoc]
    · simp only [BitVec.getLsbD_of_ge a.v _ (Nat.le_of_not_lt hM), Bool.and_false]

theorem mem_reads_coordIn {a : Nat} (ha : a < arity dim) : coordIn a ∈ reads (.ofFields C dim .encode) := by
  rw [reads, dir_ofFields, dim_ofFields]
  revert a
  cases dim <;> decide

theorem mem_reads_v : .v ∈ reads (.ofFields C dim .decode) := by
  simp only [reads, dir_ofFields, List.mem_singleton]

theorem width_coordIn (a : Nat) : (coordIn a).width c = c.W := by
  match a with
  | 0 | 1 | _ + 2 => rfl

/-- What feeds an output bit is a bit of a port that the operation reads. -/
theorem wiring_in_range {dir : Dir} {P : OutPort} {p : Nat} {Q : InPort} {q : Nat}
    (h : wiring c C dim dir P p = some (Q, q)) : Q ∈ reads (.ofFields C dim dir) ∧ q < Q.width c := by
  have hn := arity_cases dim
  cases dir with
  | encode =>
    obtain ⟨⟨-, -, hp⟩, he⟩ := wiring_encode_eq_some_iff.mp h
    cases he
    refine ⟨mem_reads_coordIn (Nat.mod_lt p (by omega)), ?_⟩
    rw [width_coordIn]
    exact Nat.lt_of_lt_of_le hp (carried_le c C dim .encode)
  | decode =>
    obtain ⟨⟨-, -, hM⟩, he⟩ := wiring_decode_eq_some_iff.mp h
    cases he
    exact ⟨mem_reads_v, hM⟩

/-- No input bit feeds two output bits: its axis and its number say which output bit it feeds. -/
theorem wiring_injective {dir : Dir} {P P' : OutPort} {p p' : Nat} {b : InPort × Nat}
    (h : wiring c C dim dir P p = some b) (h' : wiring c C dim dir P' p' = some b) : P = P' ∧ p = p' := by
  have hn := arity_cases dim
  cases dir with
  | encode =>
    obtain ⟨⟨rfl, -, -⟩, rfl⟩ := wiring_encode_eq_some_iff.mp h
    obtain ⟨⟨rfl, -, -⟩, he⟩ := wiring_encode_eq_some_iff.mp h'
    obtain ⟨hport, hdiv⟩ := Prod.mk.inj he
    have hlt (q : Nat) : q % arity dim < arity dim := Nat.mod_lt q (by omega)
    have hmod : p' % arity dim = p % arity dim :=
      coordIn_injective (by have := hlt p'; omega) (by have := hlt p; omega) hport
    exact ⟨rfl, by rw [← Nat.div_add_mod p (arity dim), ← hdiv, ← hmod, Nat.div_add_mod]⟩
  | decode =>
    obtain ⟨⟨hP, -, -⟩, rfl⟩ := wiring_decode_eq_some_iff.mp h
    obtain ⟨⟨hP', -, -⟩, he⟩ := wiring_decode_eq_some_iff.mp h'
    obtain ⟨-, hbit⟩ := Prod.mk.inj he
    have haxis : axisOf P = axisOf P' ∧ p = p' := by
      obtain hdim | hdim := hn <;> rw [hdim] at hP hP' hbit <;> omega
    exact haxis.imp_left axisOf_injective

/-- A combination of inputs, bit by bit, that gives 0 on zeros combines the output bits of a wiring. -/
theorem outBit_closedForm_combine {dir : Dir} {a b d : Inputs c} (f : Bool → Bool → Bool) (hf : f false false = false)
    (hd : ∀ Q q, inBit d Q q = f (inBit a Q q) (inBit b Q q)) (P : OutPort) (p : Nat) :
    outBit (closedForm c (.ofFields C dim dir) d) P p =
      f (outBit (closedForm c (.ofFields C dim dir) a) P p) (outBit (closedForm c (.ofFields C dim dir) b) P p) := by
  simp only [outBit_closedForm]
  cases wiring c C dim dir P p with
  | none => exact hf.symm
  | some w => exact hd w.1 w.2

theorem closedForm_zero (dir : Dir) : closedForm c (.ofFields C dim dir) (Inputs.zero c) = Outputs.zero c := by
  apply outputs_ext_outBit
  intro P p
  have hin (Q : InPort) (q : Nat) : inBit (Inputs.zero c) Q q = false := by cases Q <;> exact BitVec.getLsbD_zero
  have hout : outBit (Outputs.zero c) P p = false := by cases P <;> exact BitVec.getLsbD_zero
  rw [outBit_closedForm, hout]
  cases wiring c C dim dir P p with
  | none => rfl
  | some w => exact hin w.1 w.2

end Wiring

section Bitwise
variable {c : Config} (a b : Inputs c) (Q : InPort) (q : Nat)

theorem inBit_bitwise_xor : inBit (bitwise (· ^^^ ·) a b) Q q = (inBit a Q q ^^ inBit b Q q) := by
  cases Q <;> exact BitVec.getLsbD_xor

theorem inBit_bitwise_or : inBit (bitwise (· ||| ·) a b) Q q = (inBit a Q q || inBit b Q q) := by
  cases Q <;> exact BitVec.getLsbD_or

theorem inBit_bitwise_and : inBit (bitwise (· &&& ·) a b) Q q = (inBit a Q q && inBit b Q q) := by
  cases Q <;> exact BitVec.getLsbD_and

end Bitwise

/-! ## The obligations -/

/-- Settles O47, by the one wiring of each dimension, direction and strategy. -/
theorem everyOperationIsAWiring : Obligations.EveryOperationIsAWiring := by
  intro c i
  obtain ⟨C, dim, dir, rfl⟩ := instr_eq_ofFields i
  refine ⟨wiring c C dim dir, fun _ _ _ _ => wiring_in_range, fun _ _ _ _ _ => wiring_injective, fun op inp out => ?_⟩
  exact ⟨_, drives_closedForm _ ⟨c, op, inp, out⟩, outBit_closedForm dir inp⟩

/-- Settles O48: a wiring moves bits, so it commutes with every combination of single bits. -/
theorem everyOperationIsBitwise : Obligations.EveryOperationIsBitwise := by
  intro i s b
  obtain ⟨C, dim, dir, rfl⟩ := instr_eq_ofFields i
  have hzero := drives_closedForm (.ofFields C dim dir) { s with inp := Inputs.zero s.cfg }
  simp only [closedForm_zero] at hzero
  refine ⟨_, _, _, _, _, drives_closedForm _ s, drives_closedForm _ { s with inp := b },
    drives_closedForm _ { s with inp := bitwise (· ^^^ ·) s.inp b },
    drives_closedForm _ { s with inp := bitwise (· ||| ·) s.inp b },
    drives_closedForm _ { s with inp := bitwise (· &&& ·) s.inp b }, hzero, fun P p => ⟨?_, ?_, ?_⟩⟩
  · exact outBit_closedForm_combine (· ^^ ·) rfl (inBit_bitwise_xor s.inp b) P p
  · exact outBit_closedForm_combine (· || ·) rfl (inBit_bitwise_or s.inp b) P p
  · exact outBit_closedForm_combine (· && ·) rfl (inBit_bitwise_and s.inp b) P p

end Sys2Proof.Machine

/-!
PROOFS of the family 43_laws: the differences between the strategies in 3D (R94), the patch that removes them (R99), and
the tables as what the operations compute of their indices (R96). A limit `L` clears the index bits from `3 * L` on, and
so the coordinate bits from `L` on; at M = 32 and M = 64 those are the few bits the patch puts back.
-/

namespace Sys2Proof.Machine

open Sys2Proof

/-! ## What a limit clears -/

section Limits
variable {M W : Nat}

theorem getLsbD_ilv3_limit (x y z : BitVec W) (L p : Nat) :
    (ilv3 M x y z (some L)).getLsbD p = (decide (p < 3 * L) && (ilv3 M x y z none).getLsbD p) := by
  simp only [getLsbD_ilv3, below, Bool.true_and, show p / 3 < L ↔ p < 3 * L by omega, Bool.and_left_comm]

theorem getLsbD_dilv3_limit (v : BitVec M) (a L k : Nat) :
    (dilv3 W v a (some L)).getLsbD k = (decide (k < L) && (dilv3 W v a none).getLsbD k) := by
  simp only [getLsbD_dilv3, below, Bool.true_and, Bool.and_left_comm]

theorem getLsbD_ilv3_limit_of_lt (x y z : BitVec W) {L p : Nat} (hp : p < 3 * L) :
    (ilv3 M x y z (some L)).getLsbD p = (ilv3 M x y z none).getLsbD p := by
  rw [getLsbD_ilv3_limit, decide_eq_true hp, Bool.true_and]

theorem getLsbD_ilv3_limit_of_ge (x y z : BitVec W) {L p : Nat} (hp : 3 * L ≤ p) :
    (ilv3 M x y z (some L)).getLsbD p = false := by
  rw [getLsbD_ilv3_limit, decide_eq_false (Nat.not_lt.mpr hp), Bool.false_and]

theorem getLsbD_dilv3_limit_self (v : BitVec M) (a L : Nat) : (dilv3 W v a (some L)).getLsbD L = false := by
  rw [getLsbD_dilv3_limit, decide_eq_false (Nat.lt_irrefl L), Bool.false_and]

/-- A limit clears no bit of a coordinate that reads the index below the limit or past its end. -/
theorem getLsbD_dilv3_limit_of_lt_or_ge (v : BitVec M) {a L k : Nat} (hk : k < L ∨ M ≤ 3 * k + a) :
    (dilv3 W v a (some L)).getLsbD k = (dilv3 W v a none).getLsbD k := by
  rw [getLsbD_dilv3_limit, getLsbD_dilv3]
  obtain hlt | hge := hk
  · rw [decide_eq_true hlt, Bool.true_and]
  · simp only [BitVec.getLsbD_of_ge v _ hge, Bool.and_false]

/-- A limit clears nothing from an axis whose positions end below it. -/
theorem dilv3_limit_eq_of_le_add (v : BitVec M) {a L : Nat} (hM : M ≤ 3 * L + a) :
    dilv3 W v a (some L) = dilv3 W v a none :=
  BitVec.eq_of_getLsbD_eq fun _ _ => getLsbD_dilv3_limit_of_lt_or_ge v (by omega)

/-! ## The bits a patch puts back (43_laws R99) -/

theorem getLsbD_ilv3_x (x y z : BitVec W) {k : Nat} (hk : 3 * k < M) :
    (ilv3 M x y z none).getLsbD (3 * k) = x.getLsbD k := by
  rw [getLsbD_ilv3, decide_eq_true hk, Nat.mul_mod_right, Nat.mul_div_cancel_left k (by decide)]
  rfl

theorem getLsbD_ilv3_y (x y z : BitVec W) {k : Nat} (hk : 3 * k + 1 < M) :
    (ilv3 M x y z none).getLsbD (3 * k + 1) = y.getLsbD k := by
  rw [getLsbD_ilv3, decide_eq_true hk, Nat.mul_add_mod, show (3 * k + 1) / 3 = k by omega]
  rfl

theorem getLsbD_dilv3_none (v : BitVec M) (a k : Nat) :
    (dilv3 W v a none).getLsbD k = (decide (k < W) && v.getLsbD (3 * k + a)) := by
  rw [getLsbD_dilv3, below, Bool.true_and]

/-- The single bit `b` moved to position `q`. -/
theorem getLsbD_shl_ofBool (N : Nat) (b : Bool) (q p : Nat) :
    (shl (toWidth N (BitVec.ofBool b)) q).getLsbD p = (decide (p < N) && (decide (p = q) && b)) := by
  rw [BitVec.getLsbD_shiftLeft, BitVec.getLsbD_setWidth, BitVec.getLsbD_ofBool]
  grind

/-- Where a limit `L` leaves out at most the positions `3 * L` and `3 * L + 1`, putting these two bits back gives the
interleave with no limit. -/
theorem ilv3_eq_limit_or_patch (x y z : BitVec W) {L : Nat} (hM : M ≤ 3 * L + 2) :
    ilv3 M x y z none = ilv3 M x y z (some L) ||| shl (toWidth M (BitVec.ofBool (x.getLsbD L))) (3 * L) |||
      shl (toWidth M (BitVec.ofBool (y.getLsbD L))) (3 * L + 1) := by
  apply BitVec.eq_of_getLsbD_eq
  intro p hp
  rw [BitVec.getLsbD_or, BitVec.getLsbD_or, getLsbD_ilv3_limit, getLsbD_shl_ofBool, getLsbD_shl_ofBool]
  obtain h | rfl | rfl : p < 3 * L ∨ p = 3 * L ∨ p = 3 * L + 1 := by omega
  · simp only [h, show p ≠ 3 * L by omega, show p ≠ 3 * L + 1 by omega, decide_true, decide_false, Bool.true_and,
      Bool.false_and, Bool.and_false, Bool.or_false]
  · rw [getLsbD_ilv3_x x y z hp]
    simp [hp]
  · rw [getLsbD_ilv3_y x y z hp]
    simp [hp]

/-- The same where the index ends at position `3 * L`, so that nothing is left of the second bit. -/
theorem ilv3_eq_limit_or_patch_x (x y z : BitVec W) {L : Nat} (hM : M ≤ 3 * L + 1) :
    ilv3 M x y z none = ilv3 M x y z (some L) ||| shl (toWidth M (BitVec.ofBool (x.getLsbD L))) (3 * L) := by
  rw [ilv3_eq_limit_or_patch x y z (show M ≤ 3 * L + 2 by omega), shl, shl,
    BitVec.shiftLeft_eq_zero (n := 3 * L + 1) hM, BitVec.or_zero]

/-- Where a limit `L` leaves out at most bit `L` of a coordinate, putting this bit back gives the coordinate with no
limit. -/
theorem dilv3_eq_limit_or_patch (v : BitVec M) {a L : Nat} (hM : M ≤ 3 * (L + 1) + a) :
    dilv3 W v a none = dilv3 W v a (some L) ||| shl (toWidth W (BitVec.ofBool (v.getLsbD (3 * L + a)))) L := by
  apply BitVec.eq_of_getLsbD_eq
  intro k hk
  rw [BitVec.getLsbD_or, getLsbD_shl_ofBool]
  by_cases h : k = L
  · rw [h, getLsbD_dilv3_limit_self, getLsbD_dilv3_none, decide_eq_true rfl, Bool.false_or, Bool.true_and]
  · rw [getLsbD_dilv3_limit_of_lt_or_ge v (by omega), decide_eq_false h, Bool.false_and, Bool.and_false, Bool.or_false]

end Limits

/-! ## The 3D operations of two strategies side by side -/

theorem carriedBits_of_eq_32 {M : Nat} (hM : M = 32) : carriedBits (internalFor M) = 10 := by rw [hM]; rfl

theorem carriedBits_of_eq_64 {M : Nat} (hM : M = 64) : carriedBits (internalFor M) = 21 := by rw [hM]; rfl

theorem lt_coordWidth_10 (c : Config) : 10 < c.W ↔ 16 ≤ c.W := by
  have := coordWidth_cases c
  omega

theorem lt_coordWidth_21 (c : Config) : 21 < c.W ↔ 32 ≤ c.W := by
  have := coordWidth_cases c
  omega

theorem encode3d_lut_eq_pbd (s : State) : exec .morton3dEncodeLut s = exec .morton3dEncodePbd s :=
  exec_eq_of_closedForm_eq rfl

theorem decode3d_lut_eq_pbd {s : State} (hM : s.cfg.M ≤ 32) :
    exec .morton3dDecodeLut s = exec .morton3dDecodePbd s := by
  have hlimit (a : Nat) (ha : a < 3) :
      dilv3 s.cfg.W s.inp.v a (some (3 * groupCount s.cfg.M)) = dilv3 s.cfg.W s.inp.v a none :=
    dilv3_limit_eq_of_le s.inp.v ha (le_nine_mul_groupCount hM)
  apply exec_eq_of_closedForm_eq
  simp only [closedForm, Instr.dim, Instr.dir, Instr.strategy, decodeLimit, hlimit 0 (by decide), hlimit 1 (by decide),
    hlimit 2 (by decide)]

/-- At M = 64 seven groups hold the 21 bits that the magic sequences carry. -/
theorem decode3d_lut_eq_magic {s : State} (hM : s.cfg.M = 64) :
    exec .morton3dDecodeLut s = exec .morton3dDecodeMagic s := by
  have hlimit : 3 * groupCount s.cfg.M = carriedBits (internalFor s.cfg.M) := by
    rw [groupCount_of_eq_64 hM, carriedBits_of_eq_64 hM]
  apply exec_eq_of_closedForm_eq
  simp only [closedForm, Instr.dim, Instr.dir, Instr.strategy, decodeLimit, hlimit]

/-! ## The table contents as interleaves of their indices (43_laws R96) -/

theorem ilv2_eq_or_shl_spread2 {n : Nat} (x y : BitVec n) : ilv2 (2 * n) x y = spread2 x ||| shl (spread2 y) 1 := by
  apply BitVec.eq_of_getLsbD_eq
  intro p hp
  rw [getLsbD_ilv2, BitVec.getLsbD_or, BitVec.getLsbD_shiftLeft, getLsbD_spread2, getLsbD_spread2, decide_eq_true hp]
  obtain h | h := Nat.mod_two_eq_zero_or_one p
  · have hodd : p < 1 ∨ ¬ (p - 1) % 2 = 0 := by omega
    grind
  · simp [h, show p ≠ 0 by omega, show (p - 1) % 2 = 0 by omega, show (p - 1) / 2 = p / 2 by omega]

theorem dilv2_zero_eq_compact2 {n : Nat} (W : Nat) (b : BitVec (2 * n)) : dilv2 W b 0 = toWidth W (compact2 b) := by
  apply BitVec.eq_of_getLsbD_eq
  intro k _
  rw [getLsbD_dilv2, BitVec.getLsbD_setWidth, getLsbD_compact2, Nat.add_zero]

theorem ilv3_zero_zero_eq_spread3 {n : Nat} (M : Nat) (b : BitVec n) :
    ilv3 M b 0#n 0#n none = toWidth M (spread3 b) := by
  apply BitVec.eq_of_getLsbD_eq
  intro p _
  rw [getLsbD_ilv3, below, BitVec.getLsbD_setWidth, getLsbD_spread3, Bool.true_and]
  by_cases h : p % 3 = 0 <;> simp [h]

theorem dilv3_zero_eq_compact3 {n N : Nat} (W : Nat) (g : BitVec (3 * n)) (hN : 3 * n ≤ N) :
    dilv3 W (toWidth N g) 0 none = toWidth W (compact3 g) := by
  apply BitVec.eq_of_getLsbD_eq
  intro k _
  rw [getLsbD_dilv3_none, BitVec.getLsbD_setWidth, BitVec.getLsbD_setWidth, getLsbD_compact3, Nat.add_zero]
  by_cases h : 3 * k < N
  · rw [decide_eq_true h, Bool.true_and]
  · rw [BitVec.getLsbD_of_ge g (3 * k) (by omega), Bool.and_false]

/-! ## The obligations -/

/-- Settles O44: at each index width the limits of the strategies say which bits one of them clears, and the interleave
and de-interleave with no limit what stands there in the other. -/
theorem divergenceIn3dIsTheCompleteList : Obligations.DivergenceIn3dIsTheCompleteList := by
  intro s
  refine ⟨encode3d_lut_eq_pbd s, decode3d_lut_eq_pbd, fun hM C₁ C₂ dir => ?_, fun hM => ?_, fun hM => ?_, fun hM => ?_,
    fun hM => ?_⟩
  · exact (promotionOfNarrowWidthsIsExact s C₁ .d3 dir hM).symm.trans (promotionOfNarrowWidthsIsExact s C₂ .d3 dir hM)
  · refine ⟨_, _, drives_encode3d .magic s, drives_encode3d .pbd s, ?_⟩
    simp only [encodeLimit, carriedBits_of_eq_32 hM]
    exact ⟨fun _ hk => getLsbD_ilv3_limit_of_lt (L := 10) _ _ _ hk, getLsbD_ilv3_limit_of_ge _ _ _ (by decide),
      getLsbD_ilv3_limit_of_ge _ _ _ (by decide), getLsbD_ilv3_x (k := 10) _ _ _ (by omega),
      getLsbD_ilv3_y (k := 10) _ _ _ (by omega)⟩
  · refine ⟨_, _, drives_decode3d .magic s, drives_decode3d .pbd s, ?_⟩
    simp only [decodeLimit, carriedBits_of_eq_32 hM, triple_cx, triple_cy, triple_cz]
    rw [← Bool.decide_congr (lt_coordWidth_10 s.cfg)]
    exact ⟨dilv3_limit_eq_of_le_add _ (by omega), fun k hk => ⟨getLsbD_dilv3_limit_of_lt_or_ge _ (by omega),
      getLsbD_dilv3_limit_of_lt_or_ge _ (by omega)⟩, getLsbD_dilv3_limit_self _ _ _, getLsbD_dilv3_limit_self _ _ _,
      getLsbD_dilv3_none _ _ _, getLsbD_dilv3_none _ _ _⟩
  · refine ⟨_, _, drives_encode3d .magic s, drives_encode3d .pbd s, ?_⟩
    simp only [encodeLimit, carriedBits_of_eq_64 hM]
    exact ⟨fun _ hk => getLsbD_ilv3_limit_of_lt (L := 21) _ _ _ hk, getLsbD_ilv3_limit_of_ge _ _ _ (by decide),
      getLsbD_ilv3_x (k := 21) _ _ _ (by omega)⟩
  · refine ⟨_, _, drives_decode3d .magic s, (decode3d_lut_eq_magic hM).trans (drives_decode3d .magic s),
      drives_decode3d .pbd s, ?_⟩
    simp only [decodeLimit, carriedBits_of_eq_64 hM, triple_cx, triple_cy, triple_cz]
    rw [← Bool.decide_congr (lt_coordWidth_21 s.cfg)]
    exact ⟨dilv3_limit_eq_of_le_add _ (by omega), dilv3_limit_eq_of_le_add _ (by omega),
      fun k hk => getLsbD_dilv3_limit_of_lt_or_ge _ (by omega), getLsbD_dilv3_limit_self _ _ _,
      getLsbD_dilv3_none _ _ _⟩

/-- Settles O46: each operation is the interleave or de-interleave that the table holds. -/
theorem tablesAgreeWithTheOperations : Obligations.TablesAgreeWithTheOperations := by
  refine ⟨fun C op b b' z v out => ⟨_, drives_encode2d C _, ?_⟩, fun op b x y z out => ⟨_, drives_decode2d .pbd _, ?_⟩,
    fun op b v out => ⟨_, drives_encode3d .pbd _, ?_⟩, fun op g x y z out => ⟨_, drives_decode3d .pbd _, ?_⟩⟩
  · exact ilv2_eq_or_shl_spread2 b b'
  · exact dilv2_zero_eq_compact2 (n := 4) 8 b
  · exact ilv3_zero_zero_eq_spread3 32 b
  · exact dilv3_zero_eq_compact3 (n := 3) (N := 16) 16 g (by decide)

/-- Settles O50: the `_magic` results are those with the limit K(M), the `_pbd` results those with none, and the patch
puts back what the limit clears. -/
theorem dispatchPatchTurnsMagicIntoPbd : Obligations.DispatchPatchTurnsMagicIntoPbd := by
  constructor
  · intro s _ hM
    have hK := carriedBits_of_eq_32 hM
    refine ⟨_, _, _, _, drives_encode3d .magic s, drives_encode3d .pbd s, drives_decode3d .magic s,
      drives_decode3d .pbd s, ?_, ?_, ?_, ?_⟩ <;> simp only [encodeLimit, decodeLimit, hK]
    · exact ilv3_eq_limit_or_patch (L := 10) _ _ _ (by omega)
    · exact dilv3_eq_limit_or_patch (L := 10) _ (by omega)
    · exact dilv3_eq_limit_or_patch (L := 10) _ (by omega)
    · exact (dilv3_limit_eq_of_le_add (L := 10) _ (by omega)).symm
  · intro s _ hM
    have hK := carriedBits_of_eq_64 hM
    refine ⟨_, _, _, _, drives_encode3d .magic s, drives_encode3d .pbd s, drives_decode3d .magic s,
      drives_decode3d .pbd s, ?_, ?_, ?_, ?_⟩ <;> simp only [encodeLimit, decodeLimit, hK]
    · exact ilv3_eq_limit_or_patch_x (L := 21) _ _ _ (by omega)
    · exact dilv3_eq_limit_or_patch (L := 21) _ (by omega)
    · exact (dilv3_limit_eq_of_le_add (L := 21) _ (by omega)).symm
    · exact (dilv3_limit_eq_of_le_add (L := 21) _ (by omega)).symm

end Sys2Proof.Machine

/-!
PROOFS of the family 'other': the reset state (10_state R32; 70_reset_and_hazards R109). On zero inputs every operation
drives zeros, so the zero outputs at reset are those of the presented inputs, whichever code is presented.
-/

namespace Sys2Proof.Machine

open Sys2Proof

/-- With zeros on the operand ports and on the output ports a state is settled under every code. -/
theorem settled_of_zero_ports (c : Config) (op : OpCode) : Settled ⟨c, op, Inputs.zero c, Outputs.zero c⟩ := by
  intro i _
  obtain ⟨C, dim, dir, rfl⟩ := instr_eq_ofFields i
  exact (closedForm_zero dir).symm

theorem settled_resetFor (c : Config) : Settled (State.resetFor c) := settled_of_zero_ports c 0#4

/-! ## The obligations -/

/-- Settles O1: the definitions of the reset state, at every configuration and at the named pair. -/
theorem resetPortsAreZero : Obligations.ResetPortsAreZero := ⟨fun _ => rfl, rfl, rfl, rfl⟩

/-- Settles O2: the reset state of every configuration has zeros on all its ports. -/
theorem resetIsSettled : Obligations.ResetIsSettled := ⟨settled_resetFor, settled_resetFor Config.resetPair⟩

end Sys2Proof.Machine
